-- ==== Sys2Proof/Word.lean ====
section
/-! DEFINITION. The word types of the engine and the type of a high-precision value.

The bus carries 32-bit data and a 14-bit byte offset (20_memory.md R30); a high-precision value is a
sign, a decimal coefficient and a decimal exponent (40_numerics.md R50, R51). -/

namespace Sys2Proof

/-- One 32-bit word of the bus, of a register or of a command (10_state.md R10, 30_encoding.md R40). -/
abbrev Word := BitVec 32

/-- A byte offset into the 16 KiB register window (20_memory.md R30). -/
abbrev Offset := BitVec 14

namespace Machine

/-- A high-precision value `(-1)^s * c * 10^e` (40_numerics.md R50): `s` is the sign, `c` the decimal
coefficient, `e` the exponent of the coefficient's last digit. The canonical form of R51 is
`HPV.canonical` in WellFormed.lean. -/
structure HPV where
  s : Bool
  c : Nat
  e : Int
  deriving DecidableEq, Repr, Inhabited

/-- The value 0, whose canonical triple is `(0, 0, 0)` (40_numerics.md R51). -/
def HPV.zero : HPV := ⟨false, 0, 0⟩

end Machine

end Sys2Proof
end

