-- ==== Sys2Proof/Syntax.lean ====
section
/-! DEFINITION. The syntax: the eight commands, and what the outside of the engine can do to it. -/

namespace Sys2Proof

/-- The eight constants, in the order of the bank `K[0..7]` (10_state.md R25). -/
inductive ConstName where
  | e
  | pi
  | phi
  | sqrt2
  | sqrt3
  | gamma
  | delta
  | rho
  deriving DecidableEq, Repr

/-- The command set (30_encoding.md R42), one constructor per row of the opcode table. The only operand
inside a command word is `GETC`'s constant (30_encoding.md R44). -/
inductive Instr where
  /-- `NOP` (41_session.md R70). -/
  | nop
  /-- `INIT` (41_session.md R71). -/
  | init
  /-- `GETC k` (41_session.md R72). -/
  | getc (k : ConstName)
  /-- `EVAL` (42_generation.md R87). -/
  | eval
  /-- `STEP` (42_generation.md R88). -/
  | step
  /-- `RUN` (42_generation.md R89). -/
  | run
  /-- `FINAL` (42_generation.md R90). -/
  | final
  /-- `CLEAR` (41_session.md R73). -/
  | clear
  deriving DecidableEq, Repr

/-- One bus access of the host (00_scope.md R7): `size` is the access width in bytes, `off` the byte
offset into the window. Widths and offsets that the bus refuses (20_memory.md R31) are accesses too. -/
inductive Access where
  /-- `MemRead(off, size)`. -/
  | read (size : Nat) (off : Offset)
  /-- `MemWrite(off, size, data)`. -/
  | write (size : Nat) (off : Offset) (data : Word)
  deriving DecidableEq, Repr

/-- What can happen to the engine next, seen from outside. -/
inductive Input where
  /-- The host performs a bus access (20_memory.md R37). -/
  | bus (a : Access)
  /-- The time of the command in flight is over: it completes now (70_reset_and_hazards.md R128). With no
  command in flight, time passes and nothing changes (60_exceptions.md R114). -/
  | complete
  /-- The reset input `RST` is asserted and released (70_reset_and_hazards.md R120). -/
  | rst
  deriving DecidableEq, Repr

end Sys2Proof
end

