-- ==== Sys2Proof/Machine/State.lean ====
section
/-! DEFINITION. The state of the engine (10_state.md), as plain data, and its value after reset
(70_reset_and_hazards.md R120). -/

namespace Sys2Proof.Machine

/-- `STATUS.STATE` (10_state.md R16). The codes 4 to 7 never occur. -/
inductive EngineState where
  /-- No constants computed. -/
  | idle
  /-- Constants computed; rounds may be generated. -/
  | ready
  /-- The aggregate is exported. -/
  | done
  /-- A fatal error was raised. -/
  | error
  deriving DecidableEq, Repr

/-- `mix_variant` (10_state.md R12). -/
inductive MixVariant where
  /-- 0: the polynomial-Weyl form, the reference. -/
  | v2
  /-- 1: the product form, legacy. -/
  | v1
  deriving DecidableEq, Repr

/-- The constant-derivation mode (10_state.md R12). -/
inductive ConstMode where
  /-- 0: 100-digit values. -/
  | full
  /-- 1: 10-digit literals for the last three constants. -/
  | legacy
  deriving DecidableEq, Repr

/-- The binary rendering (10_state.md R12). -/
inductive PadMode where
  /-- 0: minimal width, the reference. -/
  | minimal
  /-- 1: fixed width `B`, zero-padded. -/
  | fixed
  deriving DecidableEq, Repr

/-- The stored fields of `CONFIG` (10_state.md R12); its reserved bits have no storage. -/
structure ConfigReg where
  prec : BitVec 8
  bits : BitVec 8
  mix : MixVariant
  cmode : ConstMode
  pad : PadMode
  deriving DecidableEq, Repr

/-- The active configuration `ACT`, latched by `INIT` (10_state.md R28). -/
structure ActiveConfig where
  p : BitVec 8
  b : BitVec 8
  mix : MixVariant
  cmode : ConstMode
  pad : PadMode
  rc : BitVec 16
  deriving DecidableEq, Repr

/-- The constant bank `K[0..7]`, all entries present (10_state.md R25). -/
structure ConstantBank where
  e : HPV
  pi : HPV
  phi : HPV
  sqrt2 : HPV
  sqrt3 : HPV
  gamma : HPV
  delta : HPV
  rho : HPV
  deriving DecidableEq, Repr

/-- The bus's answer to one access (20_memory.md R31): whether it is an error response, and the data of a
read (0 for a write and for a refused read). -/
structure BusResponse where
  error : Bool
  data : Word
  deriving DecidableEq, Repr

/-- The whole state of the engine. `STATUS.BUSY` is the view `State.busy`, `BS_LEN` the length of `bs`,
`HEX_LEN` the length of `hx`, and the `IRQ` output a function of `irqStat` and `irqEn`. -/
structure State where
  /-- `CONFIG` (10_state.md R12). -/
  config : ConfigReg
  /-- `ROUND_COUNT.COUNT` (10_state.md R13). -/
  roundCount : BitVec 16
  /-- `EVAL_ARG` (10_state.md R14). -/
  evalArg : Word
  /-- `STATUS.STATE` (10_state.md R16). -/
  state : EngineState
  /-- `STATUS.CMD_OVR` (10_state.md R16). -/
  cmdOvr : Bool
  /-- `STATUS.WLOCK` (10_state.md R16). -/
  wlock : Bool
  /-- `STATUS.CMD_IGN` (10_state.md R16). -/
  cmdIgn : Bool
  /-- `ERR.CODE` (10_state.md R17). -/
  errCode : BitVec 8
  /-- `ERR.DETAIL` (10_state.md R17). -/
  errDetail : BitVec 8
  /-- `ERR.OPC` (10_state.md R17). -/
  errOpc : BitVec 8
  /-- `ERR_IDX` (10_state.md R18). -/
  errIdx : Word
  /-- `ROUNDS_DONE` (10_state.md R19). -/
  roundsDone : Word
  /-- `NEXT_IDX` (10_state.md R19). -/
  nextIdx : Word
  /-- The bitstream, first bit first (10_state.md R26). -/
  bs : List Bool
  /-- The aggregate's hexadecimal digits, most significant first (10_state.md R27). -/
  hx : List (BitVec 4)
  /-- `LAST_IDX` (10_state.md R21). -/
  lastIdx : Word
  /-- `LAST_LEN` (10_state.md R21). -/
  lastLen : Word
  /-- `SCALED0..SCALED3` (10_state.md R21). -/
  scaled : BitVec 128
  /-- `IRQ_EN`: bit 0 `DONE_IE`, bit 1 `ERR_IE` (10_state.md R22). -/
  irqEn : BitVec 2
  /-- `IRQ_STAT`: bit 0 `DONE_P`, bit 1 `ERR_P` (10_state.md R22). -/
  irqStat : BitVec 2
  /-- `MIXRES`; `none` is VALID = 0 (10_state.md R23, R24). -/
  mixres : Option HPV
  /-- `INTPART` (10_state.md R24). -/
  intpart : Option HPV
  /-- `FRACP` (10_state.md R24). -/
  fracp : Option HPV
  /-- `CVAL` (10_state.md R24). -/
  cval : Option HPV
  /-- The bank `K[0..7]`; `none` is every entry absent (10_state.md R25). -/
  bank : Option ConstantBank
  /-- `ACT`; `none` is absent (10_state.md R28). -/
  act : Option ActiveConfig
  /-- The command in flight (10_state.md R28). -/
  inFlight : Option Word
  /-- The model's own: what the outside does next, in order (log entry 2). -/
  inputs : List Input
  /-- The model's own: the bus's answer to the last access (log entry 3). -/
  response : Option BusResponse
  /-- The model's own: how many free values reads while BUSY have drawn (log entry 1). -/
  busyReads : Nat
  deriving DecidableEq, Repr

/-- Why the machine stops with a fault. -/
inductive Fault where
  /-- Raised by the meanings of GETC, EVAL, STEP, RUN and FINAL when `ACT` or the bank is absent in a
  state that admits the command. The spec excludes it (10_state.md R25: "In READY and DONE every entry is
  present"), and `Inv` rules it out of every run. Safe: the model stops where the hardware cannot be. -/
  | sessionAbsent
  deriving DecidableEq, Repr

/-- Why a command has no meaning in the model. -/
inductive Refusal where
  /-- An instruction without a meaning, by its mnemonic. No arm of `exec` uses it. Safe. -/
  | notModelled (mnemonic : String)
  deriving DecidableEq, Repr

/-- The reset value of `CONFIG`, 0x00008064 (10_state.md R12). -/
def ConfigReg.reset : ConfigReg := ⟨100#8, 128#8, .v2, .full, .minimal⟩

/-- The machine right after reset (70_reset_and_hazards.md R120): every register at the value the spec
states. The last three fields are the model's own (log entries 1, 2 and 3). -/
def State.reset : State where
  config := ConfigReg.reset
  roundCount := 150#16
  evalArg := 0#32
  state := .idle
  cmdOvr := false
  wlock := false
  cmdIgn := false
  errCode := 0#8
  errDetail := 0#8
  errOpc := 0#8
  errIdx := 0#32
  roundsDone := 0#32
  nextIdx := 0#32
  bs := []
  hx := []
  lastIdx := 0#32
  lastLen := 0#32
  scaled := 0#128
  irqEn := 0#2
  irqStat := 0#2
  mixres := none
  intpart := none
  fracp := none
  cval := none
  bank := none
  act := none
  inFlight := none
  inputs := []
  response := none
  busyReads := 0

end Sys2Proof.Machine
end

