-- ==== Sys2Proof/Machine/Flags.lean ====
section
/-! DEFINITION. Status flags: the engine keeps no arithmetic flags; its flags are exactly the fields of
`STATUS`, `ERR` and `IRQ_STAT` (10_state.md R29), and the interrupt output is computed from them. -/

namespace Sys2Proof.Machine

/-- The code of `STATUS.STATE` (10_state.md R16). -/
def EngineState.code : EngineState → BitVec 3
  | .idle => 0#3
  | .ready => 1#3
  | .done => 2#3
  | .error => 3#3

/-- `STATUS.BUSY`: 1 exactly while a command is in flight (10_state.md R16, R28). -/
def State.busy (s : State) : Bool := s.inFlight.isSome

/-- The `STATUS` register (10_state.md R16). -/
def statusWord (s : State) : Word :=
  0#25 ++ BitVec.ofBool s.cmdIgn ++ BitVec.ofBool s.wlock ++ BitVec.ofBool s.cmdOvr
    ++ BitVec.ofBool s.busy ++ s.state.code

/-- The `ERR` register (10_state.md R17). -/
def errWord (s : State) : Word := 0#8 ++ s.errOpc ++ s.errDetail ++ s.errCode

/-- `IRQ_STAT` with `DONE_P` set (60_exceptions.md R104, R106). -/
def setDone (p : BitVec 2) : BitVec 2 := p ||| 1#2

/-- `IRQ_STAT` with `ERR_P` set (60_exceptions.md R102, R106). -/
def setErr (p : BitVec 2) : BitVec 2 := p ||| 2#2

/-- `IRQ_STAT` after a write of `v`: the bits written as 1 are cleared (20_memory.md R34). -/
def clearPending (p : BitVec 2) (v : Word) : BitVec 2 := p &&& ~~~(v.extractLsb' 0 2)

/-- The level of the `IRQ` output (60_exceptions.md R106). -/
def irqOut (s : State) : Bool :=
  (s.irqStat.getLsbD 0 && s.irqEn.getLsbD 0) || (s.irqStat.getLsbD 1 && s.irqEn.getLsbD 1)

end Sys2Proof.Machine
end

