-- ==== Sys2Proof/Config.lean ====
section
/-! DEFINITION. What an implementation fixes (00_scope.md R5) and the values the spec leaves free.

A number with a body below is one the spec states. An `opaque` constant has no body: nothing can be
proved of its value, so a claim that mentions it holds whatever the value is. -/

namespace Sys2Proof.Config

/-- `P`, the working precision in significant decimal digits (00_scope.md R5, 40_numerics.md R61). -/
abbrev precision : Nat := 100

/-- `EXP_MIN` (00_scope.md R5). -/
abbrev expMin : Int := -32768

/-- `EXP_MAX` (00_scope.md R5). -/
abbrev expMax : Int := 32767

/-- `BS_CAP_BITS`, the capacity of the bitstream buffer in bits (00_scope.md R5). -/
abbrev bsCapBits : Nat := 32768

/-- `HEX_CAP`, the capacity of the hexadecimal digit buffer (00_scope.md R5). -/
abbrev hexCap : Nat := 8192

/-- The constant the `ID` register reads (10_state.md R11). -/
abbrev idWord : Word := 0x4F504301#32

/-- The constant the `CAPS` register reads (10_state.md R11). -/
abbrev capsWord : Word := 0x04008064#32

/-- The working precisions, in decimal digits, at which the engine model first encloses an elementary
function before it rounds (40_numerics.md R59). They are the model's own search order, and the result does
not depend on them: an enclosure that is too wide to decide the rounding is computed again at the next
precision. -/
abbrev zivDigits : List Nat := [140, 260, 600]

/-- The precision from which the search goes on by doubling when none of `zivDigits` decides. -/
abbrev zivStart : Nat := 1200

/-- FREE VALUE (20_memory.md R35, 70_reset_and_hazards.md R126): what the `k`-th read of an unreliable
register returns while `STATUS.BUSY` = 1. Log entry 1. -/
opaque busyRead : Nat → Word

end Sys2Proof.Config
end

