-- ==== Sys2Proof/WellFormed.lean ====
section
/-! DEFINITION. Well-formedness checks: of instructions, command words, bus accesses and high-precision
values. -/

namespace Sys2Proof

/-- Well-formedness of an instruction. Its only operand, `GETC`'s constant, has exactly the eight values
the spec admits (41_session.md R72: "no constant name is illegal"), so no instruction is ill-formed; what
can be ill-formed is a command word (`legalWord`). -/
def Instr.wellFormed : Instr → Bool
  | .nop => true
  | .init => true
  | .getc _ => true
  | .eval => true
  | .step => true
  | .run => true
  | .final => true
  | .clear => true

/-- The fifteen legal command words (30_encoding.md R42). -/
def legalWords : List Word :=
  [0x000#32, 0x001#32, 0x002#32, 0x102#32, 0x202#32, 0x302#32, 0x402#32, 0x502#32, 0x602#32, 0x702#32,
   0x003#32, 0x004#32, 0x005#32, 0x006#32, 0x007#32]

/-- Whether a command word is legal (30_encoding.md R42, R43). -/
def legalWord (w : Word) : Bool := legalWords.contains w

/-- The width of an access in bytes. -/
def Access.size : Access → Nat
  | .read n _ => n
  | .write n _ _ => n

/-- The byte offset of an access. -/
def Access.off : Access → Offset
  | .read _ o => o
  | .write _ o _ => o

/-- Whether the bus admits an access: 32 bits wide at a 4-byte-aligned offset (20_memory.md R31). -/
def Access.admitted (a : Access) : Bool := a.size == 4 && a.off.toNat % 4 == 0

/-- Canonical form of a high-precision value (40_numerics.md R51) with an exponent in range
(40_numerics.md R50). -/
def Machine.HPV.canonical (v : Machine.HPV) : Bool :=
  (v == Machine.HPV.zero) ||
    (decide (10 ^ (Config.precision - 1) ≤ v.c) && decide (v.c < 10 ^ Config.precision)
      && decide (Config.expMin ≤ v.e) && decide (v.e ≤ Config.expMax))

end Sys2Proof
end

