-- ==== Sys2Proof/Decode.lean ====
section
/-! DEFINITION. Decoding and encoding of command words, and the command syntax. -/

namespace Sys2Proof

/-- The outcome of decoding a command word (30_encoding.md R41): a command, or an illegal word with the
DETAIL code of the first check that fails. -/
inductive Decoded where
  | illegal (detail : BitVec 8)
  | command (i : Instr)
  deriving DecidableEq, Repr

/-! ### Fields of the one format (30_encoding.md R40) -/

/-- The field `OP`, bits 7..0. -/
def opField (w : Word) : BitVec 8 := w.extractLsb' 0 8

/-- The field `KSEL`, bits 10..8. -/
def kselField (w : Word) : BitVec 3 := w.extractLsb' 8 3

/-- The field `RSV`, bits 31..11. -/
def rsvField (w : Word) : BitVec 21 := w.extractLsb' 11 21

/-- The constant a `KSEL` value selects (10_state.md R25). -/
def constOf (k : BitVec 3) : ConstName :=
  match k.toNat with
  | 0 => .e
  | 1 => .pi
  | 2 => .phi
  | 3 => .sqrt2
  | 4 => .sqrt3
  | 5 => .gamma
  | 6 => .delta
  | _ => .rho

/-- The `KSEL` value of a constant (10_state.md R25). -/
def constIndex : ConstName → BitVec 3
  | .e => 0#3
  | .pi => 1#3
  | .phi => 2#3
  | .sqrt2 => 3#3
  | .sqrt3 => 4#3
  | .gamma => 5#3
  | .delta => 6#3
  | .rho => 7#3

/-- The opcode map (30_encoding.md R42): the command of an opcode, given the `KSEL` field. -/
def commandOf (op : BitVec 8) (k : BitVec 3) : Option Instr :=
  match op.toNat with
  | 0x00 => some .nop
  | 0x01 => some .init
  | 0x02 => some (.getc (constOf k))
  | 0x03 => some .eval
  | 0x04 => some .step
  | 0x05 => some .run
  | 0x06 => some .final
  | 0x07 => some .clear
  | _ => none

/-- Decoding, a total function of the word, with its checks in the order of 30_encoding.md R41. -/
def decode (w : Word) : Decoded :=
  match commandOf (opField w) (kselField w) with
  | none => .illegal 1#8
  | some i =>
    if rsvField w ≠ 0#21 then .illegal 2#8
    else if kselField w ≠ 0#3 ∧ opField w ≠ 0x02#8 then .illegal 3#8
    else .command i

/-- The opcode of a command (30_encoding.md R42). -/
def opcode : Instr → BitVec 8
  | .nop => 0x00#8
  | .init => 0x01#8
  | .getc _ => 0x02#8
  | .eval => 0x03#8
  | .step => 0x04#8
  | .run => 0x05#8
  | .final => 0x06#8
  | .clear => 0x07#8

/-- The `KSEL` field of a command: the constant's index for `GETC`, 0 for every other
(30_encoding.md R40). -/
def ksel : Instr → BitVec 3
  | .nop => 0#3
  | .init => 0#3
  | .getc k => constIndex k
  | .eval => 0#3
  | .step => 0#3
  | .run => 0#3
  | .final => 0#3
  | .clear => 0#3

/-- The word of a command: `RSV` = 0, then `KSEL`, then `OP` (30_encoding.md R40, R42). -/
def encode (i : Instr) : Word := 0#21 ++ ksel i ++ opcode i

/-- What the decoder reads from an instruction of `nbits` bits whose bits are `w`; the bits above are
0. Every command is one 32-bit word (30_encoding.md R45), so there is one word to lay out. -/
def decodeTableWord (nbits w : Nat) : Option Instr :=
  match decode (BitVec.ofNat 32 (w % 2 ^ nbits)) with
  | .command i => some i
  | .illegal _ => none

/-! ### Command syntax (30_encoding.md R46) -/

/-- The name of a constant in the command syntax. -/
def constText : ConstName → String
  | .e => "e"
  | .pi => "pi"
  | .phi => "phi"
  | .sqrt2 => "sqrt2"
  | .sqrt3 => "sqrt3"
  | .gamma => "gamma"
  | .delta => "delta"
  | .rho => "rho"

/-- The eight constants in order. -/
def allConsts : List ConstName := [.e, .pi, .phi, .sqrt2, .sqrt3, .gamma, .delta, .rho]

/-- `GETC`'s operand: a constant's name, or its index 0..7. -/
def parseConst (t : String) : Option ConstName :=
  allConsts.find? fun k => constText k == t || toString (constIndex k).toNat == t

/-- The mnemonic of a command. -/
def mnemonic : Instr → String
  | .nop => "NOP"
  | .init => "INIT"
  | .getc _ => "GETC"
  | .eval => "EVAL"
  | .step => "STEP"
  | .run => "RUN"
  | .final => "FINAL"
  | .clear => "CLEAR"

/-- The command a line of text names: `GETC` takes one operand, every other command none. -/
def assemble (name : String) (operand : Option String) : Option Instr :=
  match operand with
  | some t => if name = "GETC" then (parseConst t).map Instr.getc else none
  | none =>
    [Instr.nop, .init, .eval, .step, .run, .final, .clear].find? fun i => mnemonic i == name

end Sys2Proof
end

