-- ==== Sys2Proof/Machine/Numerics.lean ====
section
/-! DEFINITION. The high-precision arithmetic of 40_numerics.md: exact values are rationals, and every
operation is the exact result rounded once to 100 significant decimal digits, ties to even. -/

namespace Sys2Proof.Machine

/-- The sub-causes of `ArithmeticOverflowOrPrecisionLoss` (60_exceptions.md R100, code 3). -/
inductive ArithError where
  /-- DETAIL 1: a result's exponent is outside `EXP_MIN..EXP_MAX` (40_numerics.md R53). -/
  | expRange
  /-- DETAIL 2: a value reduced by `FRAC` keeps too few fractional digits (40_numerics.md R58). -/
  | precisionLoss
  /-- DETAIL 3: the exact fractional part is not representable (40_numerics.md R58). -/
  | fracNotRepresentable
  /-- DETAIL 4: `ln` of a non-positive value (40_numerics.md R59). -/
  | lnDomain
  deriving DecidableEq, Repr

/-- The DETAIL code of an arithmetic error (60_exceptions.md R100). -/
def ArithError.detail : ArithError → BitVec 8
  | .expRange => 1#8
  | .precisionLoss => 2#8
  | .fracNotRepresentable => 3#8
  | .lnDomain => 4#8

/-! ### Exact decimal tools -/

/-- The power `10^e` as an exact rational, for any integer `e`. -/
def pow10 : Int → ℚ
  | .ofNat n => ((10 ^ n : Nat) : ℚ)
  | .negSucc n => mkRat 1 (10 ^ (n + 1))

/-- Searches upward from `j` for the first `j` with `n < 10^(2^j)`, at most `fuel` places. -/
def decSpan (n : Nat) : Nat → Nat → Nat
  | 0, j => j
  | fuel + 1, j => if n < 10 ^ 2 ^ j then j else decSpan n fuel (j + 1)

/-- Bisects: from `10^k <= n < 10^(k + 2^j)` to the `k` with `10^k <= n < 10^(k + 1)`. -/
def decBisect (n : Nat) : Nat → Nat → Nat
  | 0, k => k
  | j + 1, k => if 10 ^ (k + 2 ^ j) ≤ n then decBisect n j (k + 2 ^ j) else decBisect n j k

/-- The number of decimal digits of `n`: the least `k` with `n < 10^k` (0 for `n` = 0). -/
def decLen (n : Nat) : Nat := if n = 0 then 0 else decBisect n (decSpan n n 0) 0 + 1

/-- `floor(log10 (n / d))` for positive `n` and `d`, exactly (40_numerics.md R52). -/
def floorLog10 (n d : Nat) : Int :=
  let k : Int := (decLen n : Int) - (decLen d : Int)
  if d * 10 ^ k.toNat ≤ n * 10 ^ (-k).toNat then k else k - 1

/-- `RHE(n / d)`: the integer nearest to `n / d`, the even one when two are equally near
(40_numerics.md R52). -/
def roundHalfEven (n d : Nat) : Nat :=
  if 2 * (n % d) < d then n / d
  else if d < 2 * (n % d) then n / d + 1
  else if n / d % 2 = 0 then n / d else n / d + 1

/-! ### The number format -/

/-- The exact rational value `(-1)^s * c * 10^e` (40_numerics.md R50). -/
def HPV.toRat (v : HPV) : ℚ := (if v.s then -(v.c : Int) else (v.c : Int) : Int) * pow10 v.e

/-- `adj(v)`: the decimal exponent of the leading digit of a canonical nonzero value
(40_numerics.md R51). -/
def HPV.adj (v : HPV) : Int := v.e + Config.precision - 1

/-- Attaches sign and exponent to a rounded coefficient, carrying `10^P` out of the top digit
(40_numerics.md R52). -/
def carryOut (s : Bool) (c : Nat) (e : Int) : HPV :=
  if c = 10 ^ Config.precision then ⟨s, 10 ^ (Config.precision - 1), e + 1⟩ else ⟨s, c, e⟩

/-- `round_P` before its exponent check: the canonical value nearest to `q`, ties to even
(40_numerics.md R52). -/
def roundRaw (q : ℚ) : HPV :=
  if q.num = 0 then HPV.zero
  else
    let n := q.num.natAbs
    let e : Int := floorLog10 n q.den - Config.precision + 1
    carryOut (decide (q.num < 0)) (roundHalfEven (n * 10 ^ (-e).toNat) (q.den * 10 ^ e.toNat)) e

/-- Whether an exponent passes `check_exp` (40_numerics.md R53). -/
def expInRange (e : Int) : Bool := decide (Config.expMin ≤ e) && decide (e ≤ Config.expMax)

/-- `check_exp` applied to a rounded value (40_numerics.md R53). The zero value has exponent 0. -/
def checkExp (v : HPV) : Except ArithError HPV :=
  if expInRange v.e then .ok v else .error .expRange

/-- `round_P(q)` (40_numerics.md R52). -/
def roundP (q : ℚ) : Except ArithError HPV := checkExp (roundRaw q)

/-- An integer entering the format (40_numerics.md R55). -/
def ofInt (m : Int) : Except ArithError HPV := roundP (m : ℚ)

/-! ### The rounded operations (40_numerics.md R54) -/

/-- `add(a, b) = round_P(a + b)`. -/
def hpAdd (a b : HPV) : Except ArithError HPV := roundP (a.toRat + b.toRat)

/-- `sub(a, b) = round_P(a - b)`. -/
def hpSub (a b : HPV) : Except ArithError HPV := roundP (a.toRat - b.toRat)

/-- `mul(a, b) = round_P(a * b)`. -/
def hpMul (a b : HPV) : Except ArithError HPV := roundP (a.toRat * b.toRat)

/-! ### Integer part, fractional part, scaling -/

/-- `FLOOR(v)`: the exact integer `floor(v)` in canonical form; it never raises
(40_numerics.md R56). -/
def hpFloor (v : HPV) : HPV := roundRaw (v.toRat.floor : ℚ)

/-- `QMIN(B)`: the least `q` with `10^q >= 2^B` (40_numerics.md R57), that is the number of decimal
digits of `2^B - 1`. -/
def qmin (B : Nat) : Nat := decLen (2 ^ B - 1)

/-- An exact rational that is itself a value of the format, in canonical form; `none` where it is
not. -/
def ofExact (q : ℚ) : Option HPV :=
  let v := roundRaw q
  if v.toRat = q ∧ expInRange v.e = true then some v else none

/-- `FRAC(v)`: the checked fractional part, for scale exponent `B` (40_numerics.md R58). -/
def hpFrac (B : Nat) (v : HPV) : Except ArithError HPV :=
  if v.c ≠ 0 ∧ (Config.precision : Int) - 1 - v.adj < qmin B then .error .precisionLoss
  else
    match ofExact (v.toRat - (v.toRat.floor : ℚ)) with
    | some f => .ok f
    | none => .error .fracNotRepresentable

/-- `SCALE_B(f) = floor(f * 2^B)`, exactly (40_numerics.md R60). -/
def scaleB (B : Nat) (f : HPV) : Nat := (f.toRat * ((2 ^ B : Nat) : ℚ)).floor.toNat

end Sys2Proof.Machine
end

