-- ==== Sys2Proof/Machine/RealRounding.lean ====
section
/-! DEFINITION. `round_P` of an exact real number (40_numerics.md R52, R59): what it is, and that every real
number has one. It is the property that Elementary.lean demands of its results. -/

namespace Sys2Proof.Machine

/-- `v` is `round_P` of the real number `y`, before the exponent check: the rule of 40_numerics.md R52 with a
real number in place of the rational one. -/
def IsRounding (y : ℝ) (v : HPV) : Prop :=
  (y = 0 ∧ v = HPV.zero) ∨
    (y ≠ 0 ∧ ∃ (s : Bool) (c : Nat) (e : Int),
      (10 : ℝ) ^ (e + 99) ≤ |y| ∧ |y| < (10 : ℝ) ^ (e + 100) ∧
      |(c : ℝ) - |y| / (10 : ℝ) ^ e| ≤ 1 / 2 ∧
      (|(c : ℝ) - |y| / (10 : ℝ) ^ e| = 1 / 2 → c % 2 = 0) ∧
      (s = true ↔ y < 0) ∧ v = carryOut s c e)

/-- Every real number that is not negative has a nearest natural number, the even one at a tie. -/
theorem exists_nearest_nat (z : ℝ) (hz : 0 ≤ z) :
    ∃ c : Nat, |(c : ℝ) - z| ≤ 1 / 2 ∧ (|(c : ℝ) - z| = 1 / 2 → c % 2 = 0) := by
  have lo : ((⌊z⌋₊ : Nat) : ℝ) ≤ z := Nat.floor_le hz
  have hi : z < ((⌊z⌋₊ : Nat) : ℝ) + 1 := Nat.lt_floor_add_one z
  have down : |((⌊z⌋₊ : Nat) : ℝ) - z| = z - (⌊z⌋₊ : Nat) := by rw [abs_sub_comm]; exact abs_of_nonneg (by linarith)
  have up : |((⌊z⌋₊ + 1 : Nat) : ℝ) - z| = (⌊z⌋₊ : Nat) + 1 - z := by
    push_cast; exact abs_of_nonneg (by linarith)
  rcases lt_trichotomy (z - (⌊z⌋₊ : Nat)) (1 / 2) with h | h | h
  · exact ⟨_, by rw [down]; exact h.le, fun g => absurd (down ▸ g) h.ne⟩
  · rcases Nat.mod_two_eq_zero_or_one ⌊z⌋₊ with g | g
    · exact ⟨_, by rw [down]; exact h.le, fun _ => g⟩
    · exact ⟨⌊z⌋₊ + 1, by rw [up]; linarith, fun _ => by omega⟩
  · exact ⟨⌊z⌋₊ + 1, by rw [up]; linarith, fun g => by rw [up] at g; linarith⟩

/-- Every real number has a rounding. -/
theorem exists_isRounding (y : ℝ) : ∃ v, IsRounding y v := by
  rcases eq_or_ne y 0 with h | h
  · exact ⟨_, Or.inl ⟨h, rfl⟩⟩
  · obtain ⟨c, hc, ht⟩ := exists_nearest_nat (|y| / (10 : ℝ) ^ (Int.log 10 |y| - 99)) (by positivity)
    have pos : 0 < |y| := abs_pos.2 h
    refine ⟨_, Or.inr ⟨h, decide (y < 0), c, Int.log 10 |y| - 99, ?_, ?_, hc, ht, decide_eq_true_iff, rfl⟩⟩
    · simpa using Int.zpow_log_le_self (b := 10) (by norm_num) pos
    · have := Int.lt_zpow_succ_log_self (b := 10) (by norm_num) |y|
      rwa [show Int.log 10 |y| - 99 + 100 = Int.log 10 |y| + 1 by ring]

end Sys2Proof.Machine
end

