-- ==== Sys2Proof/Machine/Elementary.lean ====
section
/-! DEFINITION. The elementary functions `exp`, `ln` and `cos` of 40_numerics.md R59, correctly rounded.

Each function is enclosed between two exact rationals by a truncated series in fixed-point interval
arithmetic, with the series remainder part of the interval. When both ends of the enclosure round to the
same value, that value is the rounding of the exact result too. When they do not, the enclosure is computed
again with more digits, without a bound (log entry 4). -/

namespace Sys2Proof.Machine

/-! ### Fixed-point intervals -/

/-- A closed interval whose ends are integers in units of `10^-d`, for a scale `d` given with each
operation. -/
structure Fixed where
  lo : Int
  hi : Int
  deriving DecidableEq, Repr

/-- The unit of scale `d`. -/
def unit (d : Nat) : Int := ((10 ^ d : Nat) : Int)

/-- Quotient by a positive integer, rounded down. -/
def divDown (a b : Int) : Int := a / b

/-- Quotient by a positive integer, rounded up. -/
def divUp (a b : Int) : Int := -((-a) / b)

/-- The smaller of two integers. -/
def minInt (a b : Int) : Int := if a ≤ b then a else b

/-- The larger of two integers. -/
def maxInt (a b : Int) : Int := if a ≤ b then b else a

/-- The interval of one exact rational. -/
def fixOf (d : Nat) (q : ℚ) : Fixed := ⟨divDown (q.num * unit d) q.den, divUp (q.num * unit d) q.den⟩

/-- The interval of one integer. -/
def fixInt (d : Nat) (m : Int) : Fixed := ⟨m * unit d, m * unit d⟩

/-- Sums of two enclosed values. -/
def fixAdd (I J : Fixed) : Fixed := ⟨I.lo + J.lo, I.hi + J.hi⟩

/-- Negations of an enclosed value. -/
def fixNeg (I : Fixed) : Fixed := ⟨-I.hi, -I.lo⟩

/-- Products of two enclosed values: the extreme corner products, rounded outward to the scale. -/
def fixMul (d : Nat) (I J : Fixed) : Fixed :=
  ⟨divDown (minInt (minInt (I.lo * J.lo) (I.lo * J.hi)) (minInt (I.hi * J.lo) (I.hi * J.hi))) (unit d),
   divUp (maxInt (maxInt (I.lo * J.lo) (I.lo * J.hi)) (maxInt (I.hi * J.lo) (I.hi * J.hi))) (unit d)⟩

/-- Products of an enclosed value and an exact integer. -/
def fixScale (m : Int) (I : Fixed) : Fixed := ⟨minInt (m * I.lo) (m * I.hi), maxInt (m * I.lo) (m * I.hi)⟩

/-- Quotients of an enclosed value by a positive natural number, rounded outward. -/
def fixDiv (m : Nat) (I : Fixed) : Fixed := ⟨divDown I.lo m, divUp I.hi m⟩

/-! ### Series, evaluated from their remainder inwards -/

/-- `n` Horner steps of the exponential series: from an interval of the remainder factor `r`, an interval
of `sum (m < n) x^m / m! + x^n / n! * r`. -/
def expSeries (d : Nat) (X : Fixed) : Nat → Fixed → Fixed
  | 0, I => I
  | j + 1, I => expSeries d X j (fixAdd (fixInt d 1) (fixDiv (j + 1) (fixMul d X I)))

/-- `n` Horner steps of `sum (j < n) z2^j / (2j + 1) + z2^n * r`. With `z2 = z^2` it is the series of
`atanh z / z`; with `z2 = -z^2`, that of `atan z / z`. -/
def oddSeries (d : Nat) (Z2 : Fixed) : Nat → Fixed → Fixed
  | 0, I => I
  | j + 1, I => oddSeries d Z2 j (fixAdd (fixDiv (2 * j + 1) (fixInt d 1)) (fixMul d Z2 I))

/-- `n` Horner steps of the cosine series: `sum (j < n) (-r2)^j / (2j)! + (-r2)^n / (2n)! * r`. -/
def cosSeries (d : Nat) (R2 : Fixed) : Nat → Fixed → Fixed
  | 0, I => I
  | j + 1, I =>
    cosSeries d R2 j
      (fixAdd (fixInt d 1) (fixNeg (fixDiv ((2 * j + 1) * (2 * j + 2)) (fixMul d R2 I))))

/-- Squares an enclosed value `k` times. -/
def fixSquare (d : Nat) : Nat → Fixed → Fixed
  | 0, I => I
  | k + 1, I => fixSquare d k (fixMul d I I)

/-! ### Enclosures of the functions -/

/-- A closed interval of exact rationals that encloses an exact real value. -/
structure Enclosure where
  lo : ℚ
  hi : ℚ
  deriving DecidableEq, Repr

/-- The interval of scale `d` as rationals. -/
def encOf (d : Nat) (I : Fixed) : Enclosure := ⟨mkRat I.lo (10 ^ d), mkRat I.hi (10 ^ d)⟩

/-- The number of halvings that bring `0 <= x` into `[0, 1]`. -/
def halvings (x : ℚ) : Nat := Nat.log2 x.floor.toNat + 1

/-- Encloses `exp x` at scale `d + halvings x` for a rational `x >= 0`: the series at `x / 2^k`, squared
`k` times. The remainder factor of the series at an argument of `[0, 1]` lies in `[0, 2]`. -/
def expFix (d : Nat) (x : ℚ) : Fixed :=
  let k := halvings x
  fixSquare (d + k) k
    (expSeries (d + k) (fixOf (d + k) (x * mkRat 1 (2 ^ k))) (d + k) ⟨0, 2 * unit (d + k)⟩)

/-- Encloses `exp x` for any rational `x`; for a negative `x` it is the reciprocal of `exp (-x)`. -/
def expEnc (d : Nat) (x : ℚ) : Enclosure :=
  if x < 0 then
    ⟨1 / (encOf (d + halvings (-x)) (expFix d (-x))).hi, 1 / (encOf (d + halvings (-x)) (expFix d (-x))).lo⟩
  else encOf (d + halvings x) (expFix d x)

/-- Encloses `2 * atanh z` for an enclosed `z` with `|z| <= 1/3`. The series remainder factor lies in
`[0, 2]`. -/
def twoAtanhFix (d : Nat) (Z : Fixed) : Fixed :=
  fixScale 2 (fixMul d Z (oddSeries d (fixMul d Z Z) (d + d / 8 + 8) ⟨0, 2 * unit d⟩))

/-- The power of two that scales a positive rational into `(1/2, 2)`. -/
def binaryExponent (x : ℚ) : Int := (Nat.log2 x.num.natAbs : Int) - (Nat.log2 x.den : Int)

/-- `x / 2^k` for any integer `k`. -/
def scaleByTwo (x : ℚ) (k : Int) : ℚ := x * mkRat (2 ^ (-k).toNat) (2 ^ k.toNat)

/-- Encloses `ln x` for a rational `x > 0`: with `m = x / 2^k` in `(1/2, 2)`, it is
`k * ln 2 + 2 * atanh ((m - 1) / (m + 1))`, and `ln 2 = 2 * atanh (1/3)`. -/
def lnEnc (d : Nat) (x : ℚ) : Enclosure :=
  let k := binaryExponent x
  let m := scaleByTwo x k
  encOf (d + 8)
    (fixAdd (fixScale k (twoAtanhFix (d + 8) (fixOf (d + 8) (mkRat 1 3))))
      (twoAtanhFix (d + 8) (fixOf (d + 8) ((m - 1) / (m + 1)))))

/-- Encloses `atan (1 / m)` for `m >= 2`. The remainder factor of the alternating series lies in
`[0, 1]`. -/
def atanInvFix (d m : Nat) : Fixed :=
  fixDiv m (oddSeries d (fixOf d (mkRat (-1) (m * m))) d ⟨0, unit d⟩)

/-- Encloses `pi = 16 * atan (1/5) - 4 * atan (1/239)`. -/
def piFix (d : Nat) : Fixed := fixAdd (fixScale 16 (atanInvFix d 5)) (fixScale (-4) (atanInvFix d 239))

/-- The working scale for the reduction of `x` by multiples of `pi`. -/
def cosScale (d : Nat) (x : ℚ) : Nat := d + decLen x.floor.natAbs + 8

/-- The integer nearest to `x / pi`. -/
def halfTurns (w : Nat) (P : Fixed) (x : ℚ) : Int := (x / mkRat P.lo (10 ^ w) + mkRat 1 2).floor

/-- Encloses `cos x` for a rational `x`: with `k` the integer nearest to `x / pi`, it is
`(-1)^k * cos (x - k * pi)`. The remainder factor of the cosine series lies in `[-1, 1]`. -/
def cosEnc (d : Nat) (x : ℚ) : Enclosure :=
  let w := cosScale d x
  let P := piFix w
  let k := halfTurns w P x
  let R := fixAdd (fixOf w x) (fixScale (-k) P)
  let C := cosSeries w (fixMul w R R) (d / 2 + 10) ⟨-unit w, unit w⟩
  encOf w (if k % 2 = 0 then C else fixNeg C)

/-! ### Correct rounding -/

/-- The value both ends of an enclosure round to, if they round to one value. -/
def settle (I : Enclosure) : Option HPV :=
  if roundRaw I.lo = roundRaw I.hi then some (roundRaw I.lo) else none

/-- Rounds by the first precision at which the enclosure decides the rounding. -/
def ziv (f : Nat → Enclosure) : List Nat → Option HPV
  | [] => none
  | d :: ds =>
    match settle (f d) with
    | some v => some v
    | none => ziv f ds

/-- A result of the search: a value that has the property `P` demanded of it, or on which an enclosure
decides. -/
abbrev ZivResult (f : Nat → Enclosure) (P : HPV → Prop) : Type :=
  { v : HPV // P v ∨ ∃ d, settle (f d) = some v }

/-- The search for a deciding enclosure from `d` digits on, doubled each time, without a bound. Its type
already says what it gives: were there no deciding enclosure at all, the result would be a value with the
property `P`, by definition. -/
def zivFrom (f : Nat → Enclosure) (P : HPV → Prop) (h : Nonempty (ZivResult f P)) (d : Nat) : ZivResult f P :=
  match hd : settle (f d) with
  | some v => ⟨v, Or.inr ⟨d, hd⟩⟩
  | none => zivFrom f P h (2 * d)
partial_fixpoint

/-- The rounding of a value that `f` encloses, where `P` says what its roundings are: first the precisions
of `Config.zivDigits`, then the search without a bound (log entry 4). -/
def roundEnclosed (f : Nat → Enclosure) (P : HPV → Prop) (h : ∃ v, P v) : HPV :=
  match ziv f Config.zivDigits with
  | some v => v
  | none => (zivFrom f P (h.elim fun v hv => ⟨v, Or.inl hv⟩) Config.zivStart).1

/-- `exp(v)` (40_numerics.md R59), the only one of the three that can leave the exponent range. From
`|v| >= 10^6` on it does, because `e^(10^6) > 10^434294`. -/
def hpExp (v : HPV) : Except ArithError HPV :=
  if v.c ≠ 0 ∧ 6 ≤ v.adj then .error .expRange
  else checkExp (roundEnclosed (fun d => expEnc d v.toRat) (IsRounding (Real.exp v.toRat)) (exists_isRounding _))

/-- `ln(v)` (40_numerics.md R59): DETAIL 4 for `v <= 0`, exactly 0 at 1. -/
def hpLn (v : HPV) : Except ArithError HPV :=
  if v.c = 0 ∨ v.s = true then .error .lnDomain
  else if v.toRat = 1 then .ok HPV.zero
  else .ok (roundEnclosed (fun d => lnEnc d v.toRat) (IsRounding (Real.log v.toRat)) (exists_isRounding _))

/-- `cos(v)` (40_numerics.md R59); it never raises. -/
def hpCos (v : HPV) : Except ArithError HPV :=
  .ok (roundEnclosed (fun d => cosEnc d v.toRat) (IsRounding (Real.cos v.toRat)) (exists_isRounding _))

end Sys2Proof.Machine
end

