-- ==== Sys2Proof/Machine/Mixing.lean ====
section
/-! DEFINITION. The evaluator and the converter (42_generation.md R80 to R83, R86): the mixing functions
V2 and V1, the fractional extraction, and one whole evaluation. -/

namespace Sys2Proof.Machine

/-! ### Errors a command raises -/

/-- The error codes of `ERR.CODE` (60_exceptions.md R100). -/
inductive ErrorCode where
  | precisionMismatch
  | invalidRoundIndex
  | arithmetic
  | configInvalid
  | illegalCommand
  | sequenceError
  | bitstreamOverflow
  deriving DecidableEq, Repr

/-- The number of an error code (60_exceptions.md R100). -/
def ErrorCode.code : ErrorCode → BitVec 8
  | .precisionMismatch => 1#8
  | .invalidRoundIndex => 2#8
  | .arithmetic => 3#8
  | .configInvalid => 4#8
  | .illegalCommand => 5#8
  | .sequenceError => 6#8
  | .bitstreamOverflow => 7#8

/-- What `raise Fatal(code, detail, idx)` carries (60_exceptions.md R102); the index is already the
two's-complement word of `ERR_IDX`. -/
structure Raise where
  code : ErrorCode
  detail : BitVec 8
  idx : Word
  deriving DecidableEq, Repr

/-- An arithmetic error of the evaluation of index `n` (60_exceptions.md R100, R102). -/
def arithRaise (n : Int) (err : ArithError) : Raise := ⟨.arithmetic, err.detail, BitVec.ofInt 32 n⟩

/-! ### The bank as an operand -/

/-- The bank's entries in the order `K[0]` to `K[7]` (10_state.md R25). -/
def ConstantBank.list (k : ConstantBank) : List HPV :=
  [k.e, k.pi, k.phi, k.sqrt2, k.sqrt3, k.gamma, k.delta, k.rho]

/-! ### Mixing variant V2 (42_generation.md R80) -/

/-- One Weyl step: `x <- FRAC(add(x, mul(C_k, n^k)))`, with the power exact. -/
def weylStep (B : Nat) (n : Int) (k : Nat) (c x : HPV) : Except ArithError HPV := do
  let p ← ofInt (n ^ k)
  let t ← hpMul c p
  let s ← hpAdd x t
  hpFrac B s

/-- The Weyl steps for the listed constants, the first of them with power `k`. -/
def weylSteps (B : Nat) (n : Int) : Nat → List HPV → HPV → Except ArithError HPV
  | _, [], x => .ok x
  | k, c :: cs, x => do
    let x' ← weylStep B n k c x
    weylSteps B n (k + 1) cs x'

/-- `MIX_V2(n)`: the accumulator starts at 0 for every evaluation and takes the eight steps in order. -/
def mixV2 (B : Nat) (k : ConstantBank) (n : Int) : Except ArithError HPV :=
  weylSteps B n 1 k.list HPV.zero

/-! ### Mixing variant V1 (42_generation.md R81) -/

/-- A fractional term of V1: `FRAC(mul(X, C))`. -/
def fracTerm (B : Nat) (X c : HPV) : Except ArithError HPV := do
  let p ← hpMul X c
  hpFrac B p

/-- `term1 = e^x - cos(pi * x)`. -/
def v1Term1 (k : ConstantBank) (X : HPV) : Except ArithError HPV := do
  let a ← hpExp X
  let b ← hpMul k.pi X
  let c ← hpCos b
  hpSub a c

/-- `term2 = phi * x^2 - phi * x - 1`, where `n^2` is exact. -/
def v1Term2 (k : ConstantBank) (n : Int) (X : HPV) : Except ArithError HPV := do
  let y ← ofInt (n ^ 2)
  let u ← hpMul k.phi y
  let w ← hpMul k.phi X
  let v ← hpSub u w
  let one ← ofInt 1
  hpSub v one

/-- `term5 = ln(1 + x)`. -/
def v1Term5 (X : HPV) : Except ArithError HPV := do
  let one ← ofInt 1
  let y ← hpAdd one X
  hpLn y

/-- A product taken from left to right, each multiplication rounded once. -/
def hpProduct : HPV → List HPV → Except ArithError HPV
  | r, [] => .ok r
  | r, t :: ts => do
    let r' ← hpMul r t
    hpProduct r' ts

/-- `MIX_V1(n)`: the seven terms in order, then their product from left to right. The result is not
reduced to `[0, 1)`. -/
def mixV1 (B : Nat) (k : ConstantBank) (n : Int) : Except ArithError HPV := do
  let X ← ofInt n
  let t1 ← v1Term1 k X
  let t2 ← v1Term2 k n X
  let t3 ← fracTerm B X k.sqrt2
  let t4 ← fracTerm B X k.sqrt3
  let t5 ← v1Term5 X
  let t6 ← fracTerm B X k.delta
  let t7 ← fracTerm B X k.rho
  hpProduct t1 [t2, t3, t4, t5, t6, t7]

/-! ### Extraction and length -/

/-- `LEN(scaled)` (42_generation.md R83). -/
def lenOf (pad : PadMode) (B scaled : Nat) : Nat :=
  match pad with
  | .fixed => B
  | .minimal => if scaled = 0 then 1 else Nat.log2 scaled + 1

/-- What one evaluation produces (42_generation.md R86). -/
structure EvalResult where
  mixres : HPV
  intpart : HPV
  fracp : HPV
  scaled : BitVec 128
  len : Nat
  deriving DecidableEq, Repr

/-- `EXTRACT(r)` followed by `LEN` (42_generation.md R82, R83). -/
def extract (pad : PadMode) (B : Nat) (r : HPV) : Except ArithError EvalResult := do
  let f ← hpFrac B r
  .ok ⟨r, hpFloor r, f, BitVec.ofNat 128 (scaleB B f), lenOf pad B (scaleB B f)⟩

/-- The mixing function that `ACT.MIX` selects (42_generation.md R86). -/
def mix (a : ActiveConfig) (k : ConstantBank) (n : Int) : Except ArithError HPV :=
  match a.mix with
  | .v2 => mixV2 a.b.toNat k n
  | .v1 => mixV1 a.b.toNat k n

/-- The mixing function, then the extraction, with arithmetic errors carrying the index `n`. -/
def mixAndExtract (a : ActiveConfig) (k : ConstantBank) (n : Int) : Except Raise EvalResult :=
  match mix a k n >>= extract a.pad a.b.toNat with
  | .ok r => .ok r
  | .error err => .error (arithRaise n err)

/-- `EVALUATE(n)` (42_generation.md R86), its checks in the order of 60_exceptions.md R105. -/
def evaluate (a : ActiveConfig) (k : ConstantBank) (n : Int) : Except Raise EvalResult :=
  if a.p ≠ 100#8 then .error ⟨.precisionMismatch, 0#8, BitVec.ofInt 32 n⟩
  else if n ≤ 0 then .error ⟨.invalidRoundIndex, 0#8, BitVec.ofInt 32 n⟩
  else mixAndExtract a k n

end Sys2Proof.Machine
end

