-- ==== Sys2Proof/Machine/Operands.lean ====
section
/-! DEFINITION. The operands of the commands (30_encoding.md R44): the constant `KSEL` selects, the signed
index of `EVAL_ARG`, `NEXT_IDX`, the active configuration and the bank. -/

namespace Sys2Proof.Machine

/-- `K[KSEL]` (10_state.md R25). -/
def bankGet (k : ConstantBank) : ConstName → HPV
  | .e => k.e
  | .pi => k.pi
  | .phi => k.phi
  | .sqrt2 => k.sqrt2
  | .sqrt3 => k.sqrt3
  | .gamma => k.gamma
  | .delta => k.delta
  | .rho => k.rho

/-- `s32(EVAL_ARG)`: the round index of `EVAL` (10_state.md R14, 00_scope.md R6). -/
def evalIndex (s : State) : Int := s.evalArg.toInt

/-- `NEXT_IDX`, the round index of the next round (10_state.md R19). -/
def roundIndex (s : State) : Int := (s.nextIdx.toNat : Int)

/-- `ACT` as `INIT` latches it (10_state.md R28). -/
def latchConfig (s : State) : ActiveConfig :=
  ⟨s.config.prec, s.config.bits, s.config.mix, s.config.cmode, s.config.pad, s.roundCount⟩

/-- The field `ERR.OPC` of a command: bits 7..0 of its word (10_state.md R17). -/
def opcOf (i : Instr) : BitVec 8 := opField (encode i)

end Sys2Proof.Machine
end

