-- ==== Sys2Proof/Machine/Packing.lean ====
section
/-! DEFINITION. The packer (42_generation.md R83 to R85): the binary digit string of a round, and the
hexadecimal digits of a finished bitstream. Also the word views of the two buffers
(10_state.md R26, R27). -/

namespace Sys2Proof.Machine

/-- The digit string of `L` binary digits of `scaled`, most significant first (42_generation.md R83). -/
def digitString (L : Nat) (scaled : BitVec 128) : List Bool :=
  (List.range L).map fun i => scaled.getLsbD (L - 1 - i)

/-- The integer a bit string denotes, its first bit most significant (42_generation.md R85). -/
def bitsValue (bits : List Bool) : Nat := bits.foldl (fun v b => 2 * v + b.toNat) 0

/-- `bitlen(m)`: the least `L` with `m < 2^L` (00_scope.md R8); 0 for `m` = 0. -/
def bitLen (m : Nat) : Nat := if m = 0 then 0 else Nat.log2 m + 1

/-- The number of hexadecimal digits of the aggregate of value `v` (42_generation.md R85). -/
def hexDigitCount (v : Nat) : Nat := if v = 0 then 1 else (bitLen v + 3) / 4

/-- `H` hexadecimal digits of `v`, most significant first. -/
def hexDigits (H v : Nat) : List (BitVec 4) :=
  (List.range H).map fun d => BitVec.ofNat 4 (v >>> (4 * (H - 1 - d)))

/-- The aggregate of a bitstream (42_generation.md R85): empty for an empty stream. -/
def aggregateDigits (bits : List Bool) : List (BitVec 4) :=
  if bits = [] then [] else hexDigits (hexDigitCount (bitsValue bits)) (bitsValue bits)

/-- Word `w` of the `BSBUF` window: most significant bit first, 0 past the end (10_state.md R26). -/
def bsWord (bits : List Bool) (w : Nat) : Word :=
  BitVec.ofNat 32 (bitsValue ((List.range 32).map fun b => bits.getD (32 * w + b) false))

/-- Word `w` of the `HEXBUF` window: eight digits, most significant first, 0 past the end
(10_state.md R27). -/
def hexWord (digits : List (BitVec 4)) (w : Nat) : Word :=
  BitVec.ofNat 32
    (((List.range 8).map fun d => (digits.getD (8 * w + d) 0#4).toNat).foldl (fun v x => 16 * v + x) 0)

end Sys2Proof.Machine
end

