-- ==== Sys2Proof/Machine/Rom.lean ====
section
/-! DEFINITION. The constant ROM (40_numerics.md R63 to R66): the eight constants, each the exact
mathematical value rounded once to 100 significant digits, and the LEGACY literals. -/

namespace Sys2Proof.Machine

/-- `K[0]`, e (40_numerics.md R63). -/
def romE : HPV :=
  ⟨false, 2718281828459045235360287471352662497757247093699959574966967627724076630353547594571382178525166427, -99⟩

/-- `K[1]`, π (40_numerics.md R63). -/
def romPi : HPV :=
  ⟨false, 3141592653589793238462643383279502884197169399375105820974944592307816406286208998628034825342117068, -99⟩

/-- `K[2]`, φ (40_numerics.md R63). -/
def romPhi : HPV :=
  ⟨false, 1618033988749894848204586834365638117720309179805762862135448622705260462818902449707207204189391137, -99⟩

/-- `K[3]`, √2 (40_numerics.md R63). -/
def romSqrt2 : HPV :=
  ⟨false, 1414213562373095048801688724209698078569671875376948073176679737990732478462107038850387534327641573, -99⟩

/-- `K[4]`, √3 (40_numerics.md R63). -/
def romSqrt3 : HPV :=
  ⟨false, 1732050807568877293527446341505872366942805253810380628055806979451933016908800037081146186757248576, -99⟩

/-- `K[5]`, γ (40_numerics.md R64). -/
def romGamma : HPV :=
  ⟨false, 5772156649015328606065120900824024310421593359399235988057672348848677267776646709369470632917467495, -100⟩

/-- `K[6]`, δ (40_numerics.md R64). -/
def romDelta : HPV :=
  ⟨false, 4669201609102990671853203820466201617258185577475768632745651343004134330211314737138689744023948014, -99⟩

/-- `K[7]`, ρ (40_numerics.md R64). -/
def romRho : HPV :=
  ⟨false, 1324717957244746025960908854478097340734404056901733364534015050302827851245547594054699347981787280, -99⟩

/-- The LEGACY literal of `K[5]`, the spec's default 0.5772156649 (40_numerics.md R66, log entry 7). -/
def legacyGamma : HPV := ⟨false, 5772156649 * 10 ^ 90, -100⟩

/-- The LEGACY literal of `K[6]`, the spec's default 4.669201609 (40_numerics.md R66, log entry 7). -/
def legacyDelta : HPV := ⟨false, 4669201609 * 10 ^ 90, -99⟩

/-- The LEGACY literal of `K[7]`, the spec's default 1.324717957 (40_numerics.md R66, log entry 7). -/
def legacyRho : HPV := ⟨false, 1324717957 * 10 ^ 90, -99⟩

/-- `ROM(CMODE, i)` for all eight entries (40_numerics.md R63, R64, R66). -/
def rom : ConstMode → ConstantBank
  | .full => ⟨romE, romPi, romPhi, romSqrt2, romSqrt3, romGamma, romDelta, romRho⟩
  | .legacy => ⟨romE, romPi, romPhi, romSqrt2, romSqrt3, legacyGamma, legacyDelta, legacyRho⟩

end Sys2Proof.Machine
end

