-- ==== Sys2Proof/Machine/Ops.lean ====
section
/-! DEFINITION. The shared operations on the state: error entry and its exit, completion, the state checks
of command acceptance, and the effects the commands are built from. -/

namespace Sys2Proof.Machine

/-- The outcome of one command or one step. -/
abbrev Result := Host.Outcome State Fault Refusal

/-! ### Completion, error entry, ignored commands -/

/-- Completion without `DONE_P`: `BUSY` falls (60_exceptions.md R104; the end of `NOP`). -/
def completeQuiet (s : State) : State := { s with inFlight := none }

/-- Successful completion: `BUSY` falls and `DONE_P` is set (60_exceptions.md R104). -/
def completeDone (s : State) : State := { s with inFlight := none, irqStat := setDone s.irqStat }

/-- `ENTER_ERROR` for a command word whose bits 7..0 are `opc` (60_exceptions.md R102). -/
def enterError (r : Raise) (opc : BitVec 8) (s : State) : State :=
  { s with
    state := .error
    errCode := r.code.code
    errDetail := r.detail
    errOpc := opc
    errIdx := r.idx
    bs := []
    hx := []
    irqStat := setErr s.irqStat
    inFlight := none }

/-- A command word ignored in ERROR (60_exceptions.md R103, R104). -/
def ignoreCommand (s : State) : State := { s with cmdIgn := true, inFlight := none }

/-- The end of a command whose rule either gives a state or raises; a raise comes with the state the rule
had reached (60_exceptions.md R102, "Precision"). -/
def finishCommand (i : Instr) : Except (Raise × State) State → State
  | .ok t => completeDone t
  | .error (r, t) => enterError r (opcOf i) t

/-! ### The state check -/

/-- `LEGAL`: the states in which a command executes (60_exceptions.md R104). -/
def legalIn : Instr → EngineState → Bool
  | .nop, _ => true
  | .init, st => st == .idle
  | .getc _, st => st == .ready || st == .done
  | .eval, st => st == .ready || st == .done
  | .step, st => st == .ready
  | .run, st => st == .ready
  | .final, st => st == .ready
  | .clear, _ => true

/-- `SequenceError`, with DETAIL the state in which the command was accepted (60_exceptions.md R100). -/
def sequenceRaise (s : State) : Raise := ⟨.sequenceError, s.state.code.setWidth 8, 0#32⟩

/-- The acceptance checks around a command's rule (60_exceptions.md R104): in ERROR everything but `NOP`
and `CLEAR` is ignored; elsewhere a command that is not legal in the state raises `SequenceError`. -/
def gate (i : Instr) (s : State) (body : Result) : Result :=
  if legalIn i s.state then body
  else if s.state = .error then .next (ignoreCommand s)
  else .next (enterError (sequenceRaise s) (opcOf i) s)

/-- Runs a rule on the bank alone. In READY and DONE it is present (10_state.md R25); its absence is a
fault (log entry 6). -/
def withBank (s : State) (body : ConstantBank → State) : Result :=
  match s.bank with
  | some k => .next (body k)
  | none => .fault .sessionAbsent

/-- Runs a rule on the active configuration alone. In READY and DONE it is present (10_state.md R28); its
absence is a fault (log entry 6). -/
def withActive (s : State) (body : ActiveConfig → State) : Result :=
  match s.act with
  | some a => .next (body a)
  | none => .fault .sessionAbsent

/-- Runs a rule on the active configuration and the bank. In READY and DONE both are present
(10_state.md R25, R28); their absence is a fault (log entry 6). -/
def withSession (s : State) (body : ActiveConfig → ConstantBank → State) : Result :=
  match s.act, s.bank with
  | some a, some k => .next (body a k)
  | _, _ => .fault .sessionAbsent

/-! ### Effects of the commands -/

/-- The effect of a successful `INIT` (41_session.md R71). -/
def startRun (s : State) : State :=
  { s with
    act := some (latchConfig s)
    bank := some (rom s.config.cmode)
    roundsDone := 0#32
    nextIdx := 1#32
    bs := []
    hx := []
    state := .ready }

/-- The effect of `CLEAR` (41_session.md R73). -/
def clearSession (s : State) : State :=
  { s with
    state := .idle
    bank := none
    act := none
    roundsDone := 0#32
    nextIdx := 0#32
    bs := []
    hx := []
    errCode := 0#8
    errDetail := 0#8
    errOpc := 0#8
    errIdx := 0#32
    lastIdx := 0#32
    lastLen := 0#32
    scaled := 0#128
    mixres := none
    intpart := none
    fracp := none
    cval := none
    cmdOvr := false
    wlock := false
    cmdIgn := false }

/-- The effect of `GETC` (41_session.md R72). -/
def setCval (v : HPV) (s : State) : State := { s with cval := some v }

/-- `PUBLISH` (42_generation.md R86). -/
def publish (n : Int) (r : EvalResult) (s : State) : State :=
  { s with
    lastIdx := BitVec.ofInt 32 n
    mixres := some r.mixres
    intpart := some r.intpart
    fracp := some r.fracp
    scaled := r.scaled
    lastLen := BitVec.ofNat 32 r.len }

/-- `APPEND` and the counters (42_generation.md R84). -/
def appendRound (r : EvalResult) (s : State) : State :=
  { s with
    bs := s.bs ++ digitString r.len r.scaled
    roundsDone := s.roundsDone + 1#32
    nextIdx := s.nextIdx + 1#32 }

/-- `ROUND()`: one whole round at `NEXT_IDX` (42_generation.md R84). -/
def oneRound (a : ActiveConfig) (k : ConstantBank) (s : State) : Except Raise State :=
  match evaluate a k (roundIndex s) with
  | .error e => .error e
  | .ok r =>
    if Config.bsCapBits < s.bs.length + r.len then
      .error ⟨.bitstreamOverflow, 0#8, BitVec.ofInt 32 (roundIndex s)⟩
    else .ok (appendRound r (publish (roundIndex s) r s))

/-- `m` rounds in increasing index order; a raise stops the loop and keeps the rounds before it
(42_generation.md R89, 60_exceptions.md R102). -/
def runRounds (a : ActiveConfig) (k : ConstantBank) : Nat → State → Except (Raise × State) State
  | 0, s => .ok s
  | m + 1, s =>
    match oneRound a k s with
    | .error e => .error (e, s)
    | .ok t => runRounds a k m t

/-- `AGGREGATE()` (42_generation.md R85). -/
def aggregate (s : State) : State := { s with hx := aggregateDigits s.bs, state := .done }

/-! ### The rules of the commands -/

/-- `INIT` (41_session.md R71): the precision check comes before the configuration check. -/
def initRule (s : State) : Except (Raise × State) State :=
  if s.config.prec ≠ 100#8 then .error (⟨.precisionMismatch, 0#8, 0#32⟩, s)
  else if s.config.bits.toNat < 1 ∨ 128 < s.config.bits.toNat then
    .error (⟨.configInvalid, 1#8, 0#32⟩, s)
  else .ok (startRun s)

/-- `EVAL` (42_generation.md R87). -/
def evalRule (a : ActiveConfig) (k : ConstantBank) (s : State) : Except (Raise × State) State :=
  match evaluate a k (evalIndex s) with
  | .error e => .error (e, s)
  | .ok r => .ok (publish (evalIndex s) r s)

/-- `STEP` (42_generation.md R88). -/
def stepRule (a : ActiveConfig) (k : ConstantBank) (s : State) : Except (Raise × State) State :=
  if a.rc.toNat ≤ s.roundsDone.toNat then .error (sequenceRaise s, s) else runRounds a k 1 s

/-- `RUN` (42_generation.md R89). Each round adds one to `ROUNDS_DONE`, so the loop runs
`ACT.RC - ROUNDS_DONE` rounds. -/
def runRule (a : ActiveConfig) (k : ConstantBank) (s : State) : Except (Raise × State) State :=
  match runRounds a k (a.rc.toNat - s.roundsDone.toNat) s with
  | .error e => .error e
  | .ok t => .ok (aggregate t)

/-- `FINAL` (42_generation.md R90). -/
def finalRule (a : ActiveConfig) (s : State) : Except (Raise × State) State :=
  if s.roundsDone.toNat ≠ a.rc.toNat then .error (sequenceRaise s, s) else .ok (aggregate s)

end Sys2Proof.Machine
end

