-- ==== Sys2Proof/Machine/Window.lean ====
section
/-! DEFINITION. The register window (10_state.md R10): which register stands at an offset, what a register
reads, and what a write to it does (20_memory.md R34). -/

namespace Sys2Proof.Machine

/-- The registers of the map. A window or an HPV register comes with the number of a word in it. -/
inductive Reg where
  | id
  | caps
  | config
  | roundCount
  | evalArg
  | cmd
  | status
  | err
  | errIdx
  | roundsDone
  | nextIdx
  | bsLen
  | hexLen
  | lastIdx
  | lastLen
  | irqEn
  | irqStat
  | scaled (i : Nat)
  | mixres (w : Nat)
  | intpart (w : Nat)
  | fracp (w : Nat)
  | cval (w : Nat)
  | bsbuf (w : Nat)
  | hexbuf (w : Nat)
  | reserved
  deriving DecidableEq, Repr

/-- The registers of the first seventeen words of the map (10_state.md R10). -/
def lowRegs : List Reg :=
  [.id, .caps, .config, .roundCount, .evalArg, .cmd, .status, .err, .errIdx, .roundsDone, .nextIdx,
   .bsLen, .hexLen, .lastIdx, .lastLen, .irqEn, .irqStat]

/-- The register at a byte offset (10_state.md R10). -/
def regAt (off : Nat) : Reg :=
  if off < 0x044 then lowRegs.getD (off / 4) .reserved
  else if off < 0x050 then .reserved
  else if off < 0x060 then .scaled ((off - 0x050) / 4)
  else if off < 0x080 then .reserved
  else if off < 0x0C0 then .mixres ((off - 0x080) / 4)
  else if off < 0x100 then .intpart ((off - 0x0C0) / 4)
  else if off < 0x140 then .fracp ((off - 0x100) / 4)
  else if off < 0x180 then .cval ((off - 0x140) / 4)
  else if off < 0x1000 then .reserved
  else if off < 0x2000 then .bsbuf ((off - 0x1000) / 4)
  else if off < 0x3000 then .hexbuf ((off - 0x2000) / 4)
  else .reserved

/-! ### Register images -/

/-- The one-bit code of `CONFIG.MIX` (10_state.md R12). -/
def MixVariant.bit : MixVariant → BitVec 1
  | .v2 => 0#1
  | .v1 => 1#1

/-- The one-bit code of `CONFIG.CMODE` (10_state.md R12). -/
def ConstMode.bit : ConstMode → BitVec 1
  | .full => 0#1
  | .legacy => 1#1

/-- The one-bit code of `CONFIG.PAD` (10_state.md R12). -/
def PadMode.bit : PadMode → BitVec 1
  | .minimal => 0#1
  | .fixed => 1#1

/-- The `CONFIG` register; its reserved bits read 0 (10_state.md R12). -/
def configWord (c : ConfigReg) : Word := 0#13 ++ c.pad.bit ++ c.cmode.bit ++ c.mix.bit ++ c.bits ++ c.prec

/-- The fields a write of `v` stores into `CONFIG` (10_state.md R12). -/
def configOf (v : Word) : ConfigReg where
  prec := v.extractLsb' 0 8
  bits := v.extractLsb' 8 8
  mix := if v.getLsbD 16 then .v1 else .v2
  cmode := if v.getLsbD 17 then .legacy else .full
  pad := if v.getLsbD 18 then .fixed else .minimal

/-- Word `i` of an HPV register (10_state.md R23): the header, the coefficient words from the least
significant, and zeros; all words are 0 while VALID = 0. -/
def hpvWord (v : Option HPV) (i : Nat) : Word :=
  match v with
  | none => 0#32
  | some v =>
    if i = 0 then BitVec.ofBool v.s ++ 1#1 ++ 0#14 ++ BitVec.ofInt 16 v.e
    else if i ≤ 11 then BitVec.ofNat 32 (v.c / 2 ^ (32 * (i - 1)))
    else 0#32

/-- What a register reads when the read is reliable (10_state.md R11 to R27). -/
def readReg (s : State) : Reg → Word
  | .id => Config.idWord
  | .caps => Config.capsWord
  | .config => configWord s.config
  | .roundCount => s.roundCount.setWidth 32
  | .evalArg => s.evalArg
  | .cmd => 0#32
  | .status => statusWord s
  | .err => errWord s
  | .errIdx => s.errIdx
  | .roundsDone => s.roundsDone
  | .nextIdx => s.nextIdx
  | .bsLen => BitVec.ofNat 32 s.bs.length
  | .hexLen => BitVec.ofNat 32 s.hx.length
  | .lastIdx => s.lastIdx
  | .lastLen => s.lastLen
  | .irqEn => s.irqEn.setWidth 32
  | .irqStat => s.irqStat.setWidth 32
  | .scaled i => s.scaled.extractLsb' (32 * i) 32
  | .mixres w => hpvWord s.mixres w
  | .intpart w => hpvWord s.intpart w
  | .fracp w => hpvWord s.fracp w
  | .cval w => hpvWord s.cval w
  | .bsbuf w => bsWord s.bs w
  | .hexbuf w => hexWord s.hx w
  | .reserved => 0#32

/-- Whether a read of the register is reliable while `BUSY` = 1 (20_memory.md R35). `CMD` is write-only, so
its reads return 0 always (10_state.md R10, R15), and reserved offsets are no registers and read 0 always
(10_state.md R10); log entry 9. -/
def reliableWhileBusy : Reg → Bool
  | .id => true
  | .caps => true
  | .status => true
  | .irqEn => true
  | .irqStat => true
  | .cmd => true
  | .reserved => true
  | .config => false
  | .roundCount => false
  | .evalArg => false
  | .err => false
  | .errIdx => false
  | .roundsDone => false
  | .nextIdx => false
  | .bsLen => false
  | .hexLen => false
  | .lastIdx => false
  | .lastLen => false
  | .scaled _ => false
  | .mixres _ => false
  | .intpart _ => false
  | .fracp _ => false
  | .cval _ => false
  | .bsbuf _ => false
  | .hexbuf _ => false

/-- The word at a byte offset of the window when reads are reliable: the register that holds the byte
(10_state.md R10). -/
def windowWord (s : State) (off : Nat) : Word := readReg s (regAt off)

/-- The byte at an offset of the window, little-endian within its word (20_memory.md R32). -/
def windowByte (s : State) (off : Nat) : BitVec 8 := (windowWord s off).extractLsb' (8 * (off % 4)) 8

/-- The capacity of the two buffers, the only long memories the window shows (10_state.md R20). -/
def Memory.wf (s : State) : Bool :=
  decide (s.bs.length ≤ Config.bsCapBits) && decide (s.hx.length ≤ Config.hexCap)

/-! ### Register writes -/

/-- A `CMD` write that `BUSY` = 0 admits (60_exceptions.md R104). In ERROR the exact `CLEAR` word is
accepted, the exact `NOP` word does nothing, and any other word is ignored; elsewhere the word becomes the
command in flight. -/
def acceptCommand (w : Word) (s : State) : State :=
  if s.state = .error then
    if w = 7#32 then { s with inFlight := some w }
    else if w = 0#32 then s
    else { s with cmdIgn := true }
  else { s with inFlight := some w }

/-- Whether a write to `CONFIG` or `ROUND_COUNT` is dropped (10_state.md R12, R13). -/
def configLocked (s : State) : Bool := s.busy || s.state != .idle

/-- A write of `v` to a register (20_memory.md R34). -/
def writeReg (r : Reg) (v : Word) (s : State) : State :=
  match r with
  | .config => if configLocked s then { s with wlock := true } else { s with config := configOf v }
  | .roundCount =>
    if configLocked s then { s with wlock := true } else { s with roundCount := v.extractLsb' 0 16 }
  | .evalArg => if s.busy then { s with wlock := true } else { s with evalArg := v }
  | .cmd => if s.busy then { s with cmdOvr := true } else acceptCommand v s
  | .irqEn => { s with irqEn := v.extractLsb' 0 2 }
  | .irqStat => { s with irqStat := clearPending s.irqStat v }
  | .id => s
  | .caps => s
  | .status => s
  | .err => s
  | .errIdx => s
  | .roundsDone => s
  | .nextIdx => s
  | .bsLen => s
  | .hexLen => s
  | .lastIdx => s
  | .lastLen => s
  | .scaled _ => s
  | .mixres _ => s
  | .intpart _ => s
  | .fracp _ => s
  | .cval _ => s
  | .bsbuf _ => s
  | .hexbuf _ => s
  | .reserved => s

end Sys2Proof.Machine
end

