-- ==== Sys2Proof/Machine/Bus.lean ====
section
/-! DEFINITION. Bus accesses (20_memory.md R30 to R35) and the reset input (70_reset_and_hazards.md
R120). -/

namespace Sys2Proof.Machine

/-- An access the bus refuses: an error response with data 0, and nothing else (20_memory.md R31). -/
def refuseAccess (s : State) : State := { s with response := some ⟨true, 0#32⟩ }

/-- The answer to an admitted read (20_memory.md R35): while `BUSY` = 1 a register outside the reliable
group reads a fresh free value (log entry 1). -/
def answerRead (r : Reg) (s : State) : State :=
  if s.busy && !reliableWhileBusy r then
    { s with response := some ⟨false, Config.busyRead s.busyReads⟩, busyReads := s.busyReads + 1 }
  else { s with response := some ⟨false, readReg s r⟩ }

/-- The answer to an admitted write, after its effect. -/
def answerWrite (r : Reg) (v : Word) (s : State) : State :=
  { writeReg r v s with response := some ⟨false, 0#32⟩ }

/-- One bus access (20_memory.md R31, R34, R35). -/
def performAccess (a : Access) (s : State) : State :=
  if a.admitted then
    match a with
    | .read _ off => answerRead (regAt off.toNat) s
    | .write _ off v => answerWrite (regAt off.toNat) v s
  else refuseAccess s

/-- The reset input (70_reset_and_hazards.md R120): every piece of the engine's state takes its reset
value, the command in flight is abandoned. What the outside does next, and how many free values have been
drawn, are not the engine's state and stay. -/
def hardReset (s : State) : State :=
  { State.reset with inputs := s.inputs, busyReads := s.busyReads }

end Sys2Proof.Machine
end

