-- ==== Sys2Proof/Machine/Generation.lean ====
section
/-! DEFINITION. The generation commands (42_generation.md): EVAL, STEP, RUN, FINAL. -/

namespace Sys2Proof.Machine

/-- `EVAL` (42_generation.md R87). -/
def execEval (s : State) : Result :=
  gate .eval s (withSession s fun a k => finishCommand .eval (evalRule a k s))

/-- `STEP` (42_generation.md R88). -/
def execStep (s : State) : Result :=
  gate .step s (withSession s fun a k => finishCommand .step (stepRule a k s))

/-- `RUN` (42_generation.md R89). -/
def execRun (s : State) : Result :=
  gate .run s (withSession s fun a k => finishCommand .run (runRule a k s))

/-- `FINAL` (42_generation.md R90). -/
def execFinal (s : State) : Result :=
  gate .final s (withActive s fun a => finishCommand .final (finalRule a s))

end Sys2Proof.Machine
end

