-- ==== Sys2Proof/Machine/Session.lean ====
section
/-! DEFINITION. The session and Constant Provider commands (41_session.md): NOP, INIT, GETC, CLEAR. -/

namespace Sys2Proof.Machine

/-- `NOP` (41_session.md R70): no effect, and no `DONE_P`. -/
def execNop (s : State) : Result := gate .nop s (.next (completeQuiet s))

/-- `INIT` (41_session.md R71). -/
def execInit (s : State) : Result := gate .init s (.next (finishCommand .init (initRule s)))

/-- `GETC k` (41_session.md R72). -/
def execGetc (k : ConstName) (s : State) : Result :=
  gate (.getc k) s
    (withBank s fun bank => finishCommand (.getc k) (.ok (setCval (bankGet bank k) s)))

/-- `CLEAR` (41_session.md R73). -/
def execClear (s : State) : Result := gate .clear s (.next (finishCommand .clear (.ok (clearSession s))))

end Sys2Proof.Machine
end

