-- ==== Sys2Proof/Machine/Dispatch.lean ====
section
/-! DEFINITION. One arm per command of the opcode table (30_encoding.md R42). -/

namespace Sys2Proof.Machine

-- A command at the moment it completes: the acceptance checks of 60_exceptions.md R104, then its rule.
def exec (i : Instr) (s : State) : Host.Outcome State Fault Refusal :=
  match i with
  | .nop => Sys2Proof.Machine.execNop s
  | .init => Sys2Proof.Machine.execInit s
  | .getc k => Sys2Proof.Machine.execGetc k s
  | .eval => Sys2Proof.Machine.execEval s
  | .step => Sys2Proof.Machine.execStep s
  | .run => Sys2Proof.Machine.execRun s
  | .final => Sys2Proof.Machine.execFinal s
  | .clear => Sys2Proof.Machine.execClear s

end Sys2Proof.Machine
end

