-- ==== Sys2Proof/Machine/Engine.lean ====
section
/-! DEFINITION. What the engine does when a command's time is over: decode the command in flight and
execute it (60_exceptions.md R104), or raise `IllegalCommand`. Also the placing of a command word where
the next step takes it. -/

namespace Sys2Proof.Machine

/-- `IllegalCommand` with the DETAIL of decoding (30_encoding.md R43, 60_exceptions.md R104): an error
outside ERROR, an ignored word in it. -/
def illegalWord (detail : BitVec 8) (w : Word) (s : State) : State :=
  if s.state = .error then ignoreCommand s
  else enterError ⟨.illegalCommand, detail, 0#32⟩ (opField w) s

/-- The command word `w`, at its completion (60_exceptions.md R104). -/
def runCommand (w : Word) (s : State) : Result :=
  match decode w with
  | .illegal detail => .next (illegalWord detail w s)
  | .command i => exec i s

/-- The engine's own move: it completes the command in flight; with none it holds its state
(60_exceptions.md R114). -/
def engineMove (s : State) : Result :=
  match s.inFlight with
  | some w => runCommand w s
  | none => .next s

/-- One input of the outside. -/
def performInput (x : Input) (s : State) : Result :=
  match x with
  | .bus a => .next (performAccess a s)
  | .complete => engineMove s
  | .rst => .next (hardReset s)

/-- `s` with the command word of `nbits` bits `w` accepted and about to complete (log entry 2). -/
def placeCommand (s : State) (nbits w : Nat) : State :=
  { s with inFlight := some (BitVec.ofNat 32 (w % 2 ^ nbits)), inputs := .complete :: s.inputs }

end Sys2Proof.Machine
end

