-- ==== Sys2Proof/Machine/Step.lean ====
section
/-! DEFINITION. One step of the machine: the next input of the outside, or, when the outside does nothing
more, the completion of the command in flight (70_reset_and_hazards.md R128). -/

namespace Sys2Proof.Machine

/-- One step. Accesses are performed one at a time in the order the host issues them (20_memory.md R37). -/
def step (s : State) : Host.Outcome State Fault Refusal :=
  match s.inputs with
  | [] => engineMove s
  | x :: rest => performInput x { s with inputs := rest }

/-- `s` with an instruction of `nbits` bits `w` placed so that the very next step runs it: the word is the
command in flight and its time is over. It stands for the host's `CMD` write (log entry 2). -/
def State.withFetchWord (s : State) (nbits w : Nat) : State := placeCommand s nbits w

end Sys2Proof.Machine
end

