-- ==== Sys2Proof/Machine/HostOps.lean ====
section
/-! DEFINITION. The host operations and pseudo-operations in which host programs are written
(30_encoding.md R46, R47), as the inputs they send to the engine. A label, a branch and a comparison are
the host's own control flow and send nothing. -/

namespace Sys2Proof.Machine

/-- The byte offset of a register (10_state.md R10). A reserved offset has no name; 0x044 stands for
it. -/
def regOffset : Reg → Offset
  | .id => 0x000#14
  | .caps => 0x004#14
  | .config => 0x008#14
  | .roundCount => 0x00C#14
  | .evalArg => 0x010#14
  | .cmd => 0x014#14
  | .status => 0x018#14
  | .err => 0x01C#14
  | .errIdx => 0x020#14
  | .roundsDone => 0x024#14
  | .nextIdx => 0x028#14
  | .bsLen => 0x02C#14
  | .hexLen => 0x030#14
  | .lastIdx => 0x034#14
  | .lastLen => 0x038#14
  | .irqEn => 0x03C#14
  | .irqStat => 0x040#14
  | .scaled i => BitVec.ofNat 14 (0x050 + 4 * i)
  | .mixres w => BitVec.ofNat 14 (0x080 + 4 * w)
  | .intpart w => BitVec.ofNat 14 (0x0C0 + 4 * w)
  | .fracp w => BitVec.ofNat 14 (0x100 + 4 * w)
  | .cval w => BitVec.ofNat 14 (0x140 + 4 * w)
  | .bsbuf w => BitVec.ofNat 14 (0x1000 + 4 * w)
  | .hexbuf w => BitVec.ofNat 14 (0x2000 + 4 * w)
  | .reserved => 0x044#14

/-- `WR <reg>, <value>` (30_encoding.md R46). -/
def hostWr (r : Reg) (v : Word) : Input := .bus (.write 4 (regOffset r) v)

/-- `RD <reg>` (30_encoding.md R46); the value read is the bus's response. -/
def hostRd (r : Reg) : Input := .bus (.read 4 (regOffset r))

/-- `CMD <mnemonic> [operand]` (30_encoding.md R46). -/
def hostCmd (i : Instr) : Input := hostWr .cmd (encode i)

/-- `WAIT` (30_encoding.md R47): `polls` reads of `STATUS` that still show `BUSY`, the completion, and the
read that shows `BUSY` = 0. -/
def hostWait (polls : Nat) : List Input :=
  List.replicate polls (hostRd .status) ++ [.complete, hostRd .status]

/-- `DO <mnemonic> [operand]` (30_encoding.md R47). -/
def hostDo (i : Instr) (polls : Nat) : List Input := hostCmd i :: hostWait polls

/-- The value `SETCFG prec, bits, mix, cmode, pad` writes (30_encoding.md R47). -/
def setcfgWord (prec bits mix cmode pad : Nat) : Word :=
  BitVec.ofNat 32 (prec + bits * 2 ^ 8 + mix * 2 ^ 16 + cmode * 2 ^ 17 + pad * 2 ^ 18)

/-- `SETCFG prec, bits, mix, cmode, pad` (30_encoding.md R47). -/
def hostSetcfg (prec bits mix cmode pad : Nat) : Input :=
  hostWr .config (setcfgWord prec bits mix cmode pad)

/-- `EXPECT <reg>, <value>` (30_encoding.md R47): the program's claim about the last response. The read
itself is `hostRd`. -/
def hostExpect (v : Word) (s : State) : Bool := s.response == some ⟨false, v⟩

end Sys2Proof.Machine
end

