-- ==== Sys2Proof/Safety.lean ====
section
/-! DEFINITION. What a sound state and a safe run are, in the terms the statements use. -/

namespace Sys2Proof.Machine

/-! ### What the bitstream of a run is -/

/-- The digit string that round `n` contributes (42_generation.md R83, R84); none where the evaluation
fails. -/
def roundDigits (a : ActiveConfig) (k : ConstantBank) (n : Nat) : Option (List Bool) :=
  match evaluate a k (n : Int) with
  | .ok r => some (digitString r.len r.scaled)
  | .error _ => none

/-- The concatenation of the digit strings of rounds 1 to `m`, in index order (42_generation.md R84). -/
def streamOf (a : ActiveConfig) (k : ConstantBank) : Nat → Option (List Bool)
  | 0 => some []
  | m + 1 =>
    match streamOf a k m, roundDigits a k (m + 1) with
    | some p, some d => some (p ++ d)
    | _, _ => none

/-! ### The invariant -/

/-- An active configuration that `INIT` can have latched (41_session.md R71). -/
def ActiveConfig.legal (a : ActiveConfig) : Bool :=
  a.p == 100#8 && decide (1 ≤ a.b.toNat) && decide (a.b.toNat ≤ 128)

/-- `ACT` equals the register fields, `ACT` is legal, and the bank is the ROM of its constant mode
(10_state.md R25, R28). -/
def sessionOpen (s : State) : Prop :=
  s.act = some (latchConfig s) ∧ (latchConfig s).legal = true ∧ s.bank = some (rom s.config.cmode)

/-- Neither `ACT` nor any entry of the bank is present (10_state.md R25, R28). -/
def sessionClosed (s : State) : Prop := s.act = none ∧ s.bank = none

/-- No error is recorded (10_state.md R17, R18). -/
def noError (s : State) : Prop :=
  s.errCode = 0#8 ∧ s.errDetail = 0#8 ∧ s.errOpc = 0#8 ∧ s.errIdx = 0#32

/-- The counters and the bitstream of an open run (10_state.md R19, 42_generation.md R84): `NEXT_IDX` is
one more than `ROUNDS_DONE`, which is at most `ACT.RC`, and the bitstream is the rounds done so far. -/
def runProgress (s : State) : Prop :=
  s.nextIdx.toNat = s.roundsDone.toNat + 1 ∧ s.roundsDone.toNat ≤ s.roundCount.toNat ∧
    streamOf (latchConfig s) (rom s.config.cmode) s.roundsDone.toNat = some s.bs

/-- What each value of `STATUS.STATE` says of the run (10_state.md R16, R19, R20, R25, R28; 42_generation.md
R85; 60_exceptions.md R102). -/
def stateInv (s : State) : Prop :=
  match s.state with
  | .idle =>
    sessionClosed s ∧ noError s ∧ s.roundsDone = 0#32 ∧ s.nextIdx = 0#32 ∧ s.bs = [] ∧ s.hx = []
  | .ready => sessionOpen s ∧ noError s ∧ runProgress s ∧ s.hx = []
  | .done =>
    sessionOpen s ∧ noError s ∧ runProgress s ∧ s.roundsDone.toNat = s.roundCount.toNat ∧
      s.hx = aggregateDigits s.bs
  | .error =>
    (sessionOpen s ∨ sessionClosed s) ∧ 1 ≤ s.errCode.toNat ∧ s.errCode.toNat ≤ 7 ∧ s.bs = [] ∧ s.hx = []

/-- The result registers are all clear, or all hold one successful evaluation of the index in `LAST_IDX`
under `ACT` and the bank (10_state.md R21, R24; 42_generation.md R86, R92). -/
def resultInv (s : State) : Prop :=
  (s.mixres = none ∧ s.intpart = none ∧ s.fracp = none ∧ s.lastIdx = 0#32 ∧ s.lastLen = 0#32 ∧
      s.scaled = 0#128) ∨
    ∃ a k m i f, s.act = some a ∧ s.bank = some k ∧ s.mixres = some m ∧ s.intpart = some i ∧
      s.fracp = some f ∧
      evaluate a k s.lastIdx.toInt = .ok ⟨m, i, f, s.scaled, s.lastLen.toNat⟩

/-- `CVAL` is invalid or holds an entry of the bank (41_session.md R72). -/
def cvalInv (s : State) : Prop :=
  s.cval = none ∨ ∃ k c, s.bank = some k ∧ s.cval = some (bankGet k c)

/-- In ERROR the only command that can be in flight is `CLEAR` (60_exceptions.md R104). -/
def flightInv (s : State) : Prop := s.state = .error → s.inFlight = none ∨ s.inFlight = some 7#32

/-- The invariant of the engine. -/
def Inv (s : State) : Prop :=
  stateInv s ∧ Memory.wf s = true ∧ resultInv s ∧ cvalInv s ∧ flightInv s

/-! ### Frames: what a command may change in the window -/

/-- The registers one evaluation publishes (42_generation.md R86). -/
def publishedReg : Reg → Bool
  | .lastIdx => true
  | .lastLen => true
  | .scaled _ => true
  | .mixres _ => true
  | .intpart _ => true
  | .fracp _ => true
  | _ => false

/-- The round counters (42_generation.md R84). -/
def counterReg : Reg → Bool
  | .roundsDone => true
  | .nextIdx => true
  | _ => false

/-- The registers that show the bitstream (42_generation.md R84). -/
def bitstreamReg : Reg → Bool
  | .bsLen => true
  | .bsbuf _ => true
  | _ => false

/-- The registers that show the aggregate (42_generation.md R85). -/
def aggregateReg : Reg → Bool
  | .hexLen => true
  | .hexbuf _ => true
  | _ => false

/-- The registers every completion changes: `STATUS`, and the pending bits (60_exceptions.md R104). -/
def completionReg : Reg → Bool
  | .status => true
  | .irqStat => true
  | _ => false

/-- The word of `CVAL` (41_session.md R72). -/
def cvalReg : Reg → Bool
  | .cval _ => true
  | _ => false

/-- The error registers (10_state.md R17, R18). -/
def errorReg : Reg → Bool
  | .err => true
  | .errIdx => true
  | _ => false

/-- The registers a successful command may change ("Flags and status written" of each command in
41_session.md and 42_generation.md). -/
def mayChange : Instr → Reg → Bool
  | .nop, r => r == .status
  | .init, r => completionReg r || counterReg r || bitstreamReg r || aggregateReg r
  | .getc _, r => completionReg r || cvalReg r
  | .eval, r => completionReg r || publishedReg r
  | .step, r => completionReg r || publishedReg r || counterReg r || bitstreamReg r
  | .run, r => completionReg r || publishedReg r || counterReg r || bitstreamReg r || aggregateReg r
  | .final, r => completionReg r || aggregateReg r
  | .clear, r =>
    completionReg r || publishedReg r || counterReg r || bitstreamReg r || aggregateReg r || cvalReg r
      || errorReg r

/-- The registers a command that ends in ERROR may change (60_exceptions.md R102): those of the error entry,
and, for `RUN` alone, those of the rounds before the failing one. -/
def mayChangeOnError (i : Instr) (r : Reg) : Bool :=
  completionReg r || errorReg r || bitstreamReg r || aggregateReg r
    || (i == .run && (publishedReg r || counterReg r))

/-! ### Runs -/

/-- The states a run can reach from reset, whatever the outside does. -/
inductive Reachable : State → Prop where
  /-- A run starts at reset with any list of inputs. -/
  | start (inputs : List Input) : Reachable { State.reset with inputs := inputs }
  /-- A step that answers a next state continues the run. -/
  | next {s t : State} : Reachable s → step s = .next t → Reachable t

/-- A step that neither faults nor refuses. -/
def stepSafe (s : State) : Prop := ∃ t, step s = .next t

end Sys2Proof.Machine
end

