-- ==== Sys2Proof/Certificates/Slice0/Obligations.lean ====
section
/-! DEFINITION. The statements for the provers. Where a statement writes a number, it is the spec's: 1#2 is
`DONE_P` and 2#2 `ERR_P` in `IRQ_STAT` (10_state.md R22). -/

open Sys2Proof Sys2Proof.Machine

/-! ### Encoding (30_encoding.md) -/

/-- R41: the checks of decoding in their order, on the fields OP = w mod 256, KSEL = (w / 256) mod 8 and
RSV = w / 2048. -/
def Obligations.DecodeChecksInOrder : Prop :=
  ∀ w : Word,
    let op := w.toNat % 256
    let k := w.toNat / 256 % 8
    let rsv := w.toNat / 2048
    (8 ≤ op → decode w = .illegal 1#8) ∧
    (op < 8 → rsv ≠ 0 → decode w = .illegal 2#8) ∧
    (op < 8 → rsv = 0 → k ≠ 0 → op ≠ 2 → decode w = .illegal 3#8) ∧
    (op < 8 → rsv = 0 → (k = 0 ∨ op = 2) →
      ∃ i, decode w = .command i ∧ (opcode i).toNat = op ∧ (ksel i).toNat = k)

/-- Decoding and encoding are inverse on all 2^32 words: a word decodes to a command exactly when it is
that command's word, so no bit of an encoding is dropped and no two words mean the same (from R41, R42). -/
def Obligations.DecodeIsInverseOfEncode : Prop :=
  ∀ (w : Word) (i : Instr), decode w = .command i ↔ w = encode i

/-- R42: the fifteen legal words with their commands, and no other word is a command. -/
def Obligations.LegalWordsAreTheFifteen : Prop :=
  decode 0x00000000#32 = .command .nop ∧ decode 0x00000001#32 = .command .init ∧
  decode 0x00000002#32 = .command (.getc .e) ∧ decode 0x00000102#32 = .command (.getc .pi) ∧
  decode 0x00000202#32 = .command (.getc .phi) ∧ decode 0x00000302#32 = .command (.getc .sqrt2) ∧
  decode 0x00000402#32 = .command (.getc .sqrt3) ∧ decode 0x00000502#32 = .command (.getc .gamma) ∧
  decode 0x00000602#32 = .command (.getc .delta) ∧ decode 0x00000702#32 = .command (.getc .rho) ∧
  decode 0x00000003#32 = .command .eval ∧ decode 0x00000004#32 = .command .step ∧
  decode 0x00000005#32 = .command .run ∧ decode 0x00000006#32 = .command .final ∧
  decode 0x00000007#32 = .command .clear ∧
  ∀ w : Word, legalWord w = false → ∃ d, decode w = .illegal d

/-- A few words written out from the encoding decode to the commands they stand for. -/
def Obligations.SampleWordsDecode : Prop :=
  decode 0b00000000000000000000011100000010#32 = .command (.getc .rho) ∧
  decode 0b00000000000000000000000000000101#32 = .command .run ∧
  decode 0b00000000000000000000100000000111#32 = .illegal 2#8 ∧
  decode 0b00000000000000000000000100000001#32 = .illegal 3#8 ∧
  decode 0b00000000000000000000000000001000#32 = .illegal 1#8

/-- The `CONFIG` register reads back what a write stored, with the reserved bits 0 (from R12), and `SETCFG`
stores its five arguments (from R47). -/
def Obligations.ConfigReadsBackWhatWasStored : Prop :=
  (∀ v : Word, configWord (configOf v) = v &&& 0x0007FFFF#32) ∧
  (∀ c : ConfigReg, configOf (configWord c) = c) ∧
  (∀ prec bits mix cmode pad : Nat, prec < 256 → bits < 256 → mix < 2 → cmode < 2 → pad < 2 →
    configOf (setcfgWord prec bits mix cmode pad) =
      ⟨BitVec.ofNat 8 prec, BitVec.ofNat 8 bits, if mix = 0 then .v2 else .v1,
        if cmode = 0 then .full else .legacy, if pad = 0 then .minimal else .fixed⟩)

/-! ### Register images and windows (10_state.md) -/

/-- R23: the sixteen words of an HPV register, their uniqueness, and where each of the four registers of R24
stands in the window. -/
def Obligations.HpvImageHoldsTheTriple : Prop :=
  (∀ i : Nat, hpvWord none i = 0#32) ∧
  (∀ v : HPV, v.canonical = true →
    ((hpvWord (some v) 0).extractLsb' 0 16).toInt = v.e ∧
    (hpvWord (some v) 0).extractLsb' 16 14 = 0#14 ∧
    (hpvWord (some v) 0).getLsbD 30 = true ∧
    (hpvWord (some v) 0).getLsbD 31 = v.s ∧
    (∑ i ∈ Finset.range 11, (hpvWord (some v) (1 + i)).toNat * 2 ^ (32 * i)) = v.c ∧
    (hpvWord (some v) 11).toNat < 2 ^ 13 ∧
    ∀ i : Nat, 12 ≤ i → hpvWord (some v) i = 0#32) ∧
  (∀ u v : HPV, u.canonical = true → v.canonical = true →
    (∀ i : Nat, i < 16 → hpvWord (some u) i = hpvWord (some v) i) → u = v) ∧
  (∀ (s : State) (i : Nat), i < 16 →
    windowWord s (0x080 + 4 * i) = hpvWord s.mixres i ∧ windowWord s (0x0C0 + 4 * i) = hpvWord s.intpart i ∧
    windowWord s (0x100 + 4 * i) = hpvWord s.fracp i ∧ windowWord s (0x140 + 4 * i) = hpvWord s.cval i)

/-- R26: bit `j` of the bitstream stands at bit `31 - (j mod 32)` of its word of the window, and every
position past the end reads 0. -/
def Obligations.BsbufShowsTheBitstream : Prop :=
  ∀ (s : State) (j : Nat), j < 32768 →
    (windowWord s (0x1000 + 4 * (j / 32))).getLsbD (31 - j % 32) = s.bs.getD j false

/-- R27: digit `d` of the aggregate stands at bits `31 - 4 (d mod 8)` to `28 - 4 (d mod 8)` of its word of
the window, and every position past the end reads 0. -/
def Obligations.HexbufShowsTheDigits : Prop :=
  ∀ (s : State) (d : Nat), d < 8192 →
    (windowWord s (0x2000 + 4 * (d / 8))).extractLsb' (28 - 4 * (d % 8)) 4 = s.hx.getD d 0#4

/-- What each register of the map reads, offset by offset, with the codes of its fields written out (from
R10 to R22): the identification, the configuration, `STATUS`, `ERR`, the counters, the lengths, the last
evaluation's registers with `SCALED0..3`, and the interrupt registers. The four HPV registers are in
HpvImageHoldsTheTriple, the two buffers in BsbufShowsTheBitstream and HexbufShowsTheDigits. -/
def Obligations.RegistersReadTheirState : Prop :=
  ∀ s : State,
    windowWord s 0x000 = 0x4F504301#32 ∧ windowWord s 0x004 = 0x04008064#32 ∧
    (windowWord s 0x008).toNat = s.config.prec.toNat + 256 * s.config.bits.toNat
      + 65536 * (match s.config.mix with | .v2 => 0 | .v1 => 1)
      + 131072 * (match s.config.cmode with | .full => 0 | .legacy => 1)
      + 262144 * (match s.config.pad with | .minimal => 0 | .fixed => 1) ∧
    (windowWord s 0x00C).toNat = s.roundCount.toNat ∧
    windowWord s 0x010 = s.evalArg ∧ windowWord s 0x014 = 0#32 ∧
    (windowWord s 0x018).toNat =
      (match s.state with | .idle => 0 | .ready => 1 | .done => 2 | .error => 3)
        + 8 * s.inFlight.isSome.toNat + 16 * s.cmdOvr.toNat + 32 * s.wlock.toNat + 64 * s.cmdIgn.toNat ∧
    (windowWord s 0x01C).toNat = s.errCode.toNat + 256 * s.errDetail.toNat + 65536 * s.errOpc.toNat ∧
    windowWord s 0x020 = s.errIdx ∧ windowWord s 0x024 = s.roundsDone ∧ windowWord s 0x028 = s.nextIdx ∧
    windowWord s 0x02C = BitVec.ofNat 32 s.bs.length ∧ windowWord s 0x030 = BitVec.ofNat 32 s.hx.length ∧
    windowWord s 0x034 = s.lastIdx ∧ windowWord s 0x038 = s.lastLen ∧
    (windowWord s 0x03C).toNat = s.irqEn.toNat ∧ (windowWord s 0x040).toNat = s.irqStat.toNat ∧
    (∀ i : Nat, i < 4 → windowWord s (0x050 + 4 * i) = s.scaled.extractLsb' (32 * i) 32)

/-- The interrupt output and the write-1-to-clear of the pending bits (from R22, R106): the level is the
or of the two enabled pending bits, and a write clears exactly the bits written as 1. -/
def Obligations.IrqIsLevelOfEnabledPendingBits : Prop :=
  ∀ (s : State) (v : Word),
    (irqOut s = true ↔
      (s.irqStat.getLsbD 0 = true ∧ s.irqEn.getLsbD 0 = true) ∨
        (s.irqStat.getLsbD 1 = true ∧ s.irqEn.getLsbD 1 = true)) ∧
    (∀ j : Nat, j < 2 →
      (writeReg .irqStat v s).irqStat.getLsbD j = (s.irqStat.getLsbD j && !v.getLsbD j)) ∧
    (writeReg .irqStat v s).irqEn = s.irqEn

/-! ### The bus (20_memory.md) -/

/-- R31: the only admitted access is a 32-bit one at a 4-byte-aligned offset; any other is answered with an
error response and data 0, and changes nothing of the engine. -/
def Obligations.OnlyAlignedWordAccessesAreAdmitted : Prop :=
  ∀ (a : Access) (s : State),
    (a.size = 4 ∧ a.off.toNat % 4 = 0 →
      ∃ w : Word, (performAccess a s).response = some ⟨false, w⟩) ∧
    (¬ (a.size = 4 ∧ a.off.toNat % 4 = 0) →
      performAccess a s = { s with response := some ⟨true, 0#32⟩ })

/-- R34: what an admitted write does, register by register; a `CMD` write that is accepted is
60_exceptions.md R104's acceptance. Every admitted write is answered without an error. -/
def Obligations.WriteAcceptance : Prop :=
  ∀ (s : State) (v : Word),
    let ok : State := { s with response := some ⟨false, 0#32⟩ }
    let wr : Offset → State := fun off => performAccess (.write 4 off v) s
    (wr 0x008#14 = if s.inFlight.isSome ∨ s.state ≠ .idle then { ok with wlock := true }
      else { ok with config := configOf v }) ∧
    (wr 0x00C#14 = if s.inFlight.isSome ∨ s.state ≠ .idle then { ok with wlock := true }
      else { ok with roundCount := v.extractLsb' 0 16 }) ∧
    (wr 0x010#14 = if s.inFlight.isSome then { ok with wlock := true } else { ok with evalArg := v }) ∧
    (wr 0x014#14 =
      if s.inFlight.isSome then { ok with cmdOvr := true }
      else if s.state ≠ .error then { ok with inFlight := some v }
      else if v = 0x00000007#32 then { ok with inFlight := some v }
      else if v = 0x00000000#32 then ok
      else { ok with cmdIgn := true }) ∧
    (wr 0x03C#14 = { ok with irqEn := v.extractLsb' 0 2 }) ∧
    (wr 0x040#14 = { ok with irqStat := s.irqStat &&& ~~~(v.extractLsb' 0 2) }) ∧
    (∀ off : Offset, off.toNat % 4 = 0 →
      off ∉ [0x008#14, 0x00C#14, 0x010#14, 0x014#14, 0x03C#14, 0x040#14] → wr off = ok)

/-- Reads while `BUSY` = 1 and after it (from R35, R15). `ID`, `CAPS`, `STATUS`, `IRQ_EN` and `IRQ_STAT` return
their current values at any time, and the write-only `CMD` its 0 (that R15 holds while `BUSY` too is the
model's reading, log entry 9). Any other register or window returns a free value while `BUSY` = 1, drawn with
the model's own counter (log entry 1), and its current value otherwise. Reserved offsets are the subject of
ReservedOffsetsReadZero. -/
def Obligations.ReadsWhileBusyAreFree : Prop :=
  ∀ (s : State) (off : Offset), off.toNat % 4 = 0 →
    let rd : State := performAccess (.read 4 off) s
    (off ∈ [0x000#14, 0x004#14, 0x014#14, 0x018#14, 0x03C#14, 0x040#14] ∨ s.inFlight = none →
      rd = { s with response := some ⟨false, windowWord s off.toNat⟩ }) ∧
    (off ∉ [0x000#14, 0x004#14, 0x014#14, 0x018#14, 0x03C#14, 0x040#14] → regAt off.toNat ≠ .reserved →
      s.inFlight ≠ none →
      rd = { s with response := some ⟨false, Config.busyRead s.busyReads⟩, busyReads := s.busyReads + 1 })

/-- Reserved offsets of the map read 0 and ignore writes, with no error response (from R10, R36). That they
read 0 also while `BUSY` = 1 is the model's reading (log entry 9). -/
def Obligations.ReservedOffsetsReadZero : Prop :=
  ∀ (s : State) (off : Offset) (v : Word), off.toNat % 4 = 0 →
    ((0x044 ≤ off.toNat ∧ off.toNat < 0x050) ∨ (0x060 ≤ off.toNat ∧ off.toNat < 0x080) ∨
      (0x180 ≤ off.toNat ∧ off.toNat < 0x1000) ∨ 0x3000 ≤ off.toNat) →
    performAccess (.read 4 off) s = { s with response := some ⟨false, 0#32⟩ } ∧
    performAccess (.write 4 off v) s = { s with response := some ⟨false, 0#32⟩ }

/-- While a command is in flight no access changes its result: an access leaves every field alone but the
stored bits a write may set while busy and the model's own bookkeeping (from R34, R37). -/
def Obligations.BusyAccessesLeaveTheRunAlone : Prop :=
  ∀ (a : Access) (s : State), s.inFlight ≠ none →
    ∃ (ovr lock : Bool) (en st : BitVec 2) (resp : Option BusResponse) (n : Nat),
      performAccess a s = { s with
        cmdOvr := ovr, wlock := lock, irqEn := en, irqStat := st, response := resp, busyReads := n } ∧
      (s.cmdOvr = true → ovr = true) ∧ (s.wlock = true → lock = true)

/-! ### Reset (70_reset_and_hazards.md) -/

/-- R120: what the reset input leaves, register by register and for the unmapped state; it abandons the
command in flight. -/
def Obligations.ResetLeavesTheTable : Prop :=
  ∀ (s : State) (rest : List Input), s.inputs = .rst :: rest →
    ∃ t, step s = .next t ∧
      (∀ off : Nat, off < 0x4000 → windowWord t off =
        if off / 4 = 0 then 0x4F504301#32
        else if off / 4 = 1 then 0x04008064#32
        else if off / 4 = 2 then 0x00008064#32
        else if off / 4 = 3 then 0x00000096#32
        else 0#32) ∧
      t.state = .idle ∧ t.mixres = none ∧ t.intpart = none ∧ t.fracp = none ∧ t.cval = none ∧
      t.bank = none ∧ t.act = none ∧ t.bs = [] ∧ t.hx = [] ∧ t.inFlight = none ∧ irqOut t = false

/-! ### Arithmetic (40_numerics.md) -/

/-- R52 (with the exponent check of R53): `round_P` of an exact rational is its nearest value of 100
significant digits, ties to even, in canonical form, and a value already in the format is itself. -/
def Obligations.RoundPIsHalfEvenTo100Digits : Prop :=
  (∀ q : ℚ,
    (q = 0 → roundP q = .ok ⟨false, 0, 0⟩) ∧
    (q ≠ 0 → ∃ (e : Int) (c : Nat),
      (10 : ℚ) ^ (e + 99) ≤ |q| ∧ |q| < (10 : ℚ) ^ (e + 100) ∧
      |(c : ℚ) - |q| / (10 : ℚ) ^ e| ≤ 1 / 2 ∧
      (|(c : ℚ) - |q| / (10 : ℚ) ^ e| = 1 / 2 → c % 2 = 0) ∧
      let v : HPV := if c = 10 ^ 100 then ⟨decide (q < 0), 10 ^ 99, e + 1⟩ else ⟨decide (q < 0), c, e⟩
      roundP q = if -32768 ≤ v.e ∧ v.e ≤ 32767 then .ok v else .error .expRange)) ∧
  (∀ (q : ℚ) (v : HPV), roundP q = .ok v → v.canonical = true) ∧
  (∀ v : HPV, v.canonical = true → roundP v.toRat = .ok v)

/-- R56: `FLOOR` is the exact integer floor, in canonical form, also below zero. -/
def Obligations.FloorIsExact : Prop :=
  ∀ v : HPV, v.canonical = true →
    (hpFloor v).canonical = true ∧ (hpFloor v).toRat = (⌊v.toRat⌋ : ℚ) ∧
    (v.toRat < 0 → (hpFloor v).toRat = -(⌈|v.toRat|⌉ : ℚ))

/-- R57: `QMIN(B)` is the least `q` with `10^q >= 2^B`, and its values at the sample widths. -/
def Obligations.QminIsLeast : Prop :=
  (∀ B q : Nat, qmin B ≤ q ↔ 2 ^ B ≤ 10 ^ q) ∧
  [1, 2, 3, 4, 8, 16, 32, 64, 100, 127, 128].map qmin = [1, 1, 1, 2, 3, 5, 10, 20, 31, 39, 39]

/-- The three outcomes of `FRAC` (from R58, R100; the index `n` of a raise is attached by the evaluation): too
few fractional digits, DETAIL 2; the exact fractional part, in `[0, 1)`; or a fractional part the format does not hold,
DETAIL 3, which no value that is not negative has. -/
def Obligations.FracIsCheckedFractionalPart : Prop :=
  (ArithError.precisionLoss.detail = 2#8 ∧ ArithError.fracNotRepresentable.detail = 3#8) ∧
  ∀ (B : Nat) (v : HPV), v.canonical = true →
    let f : ℚ := v.toRat - (⌊v.toRat⌋ : ℚ)
    let short : Prop := v.toRat ≠ 0 ∧ 100 - 1 - (v.e + 100 - 1) < (qmin B : Int)
    (short → hpFrac B v = .error .precisionLoss) ∧
    (¬ short →
      (∃ u : HPV, u.canonical = true ∧ u.toRat = f ∧ 0 ≤ f ∧ f < 1 ∧ hpFrac B v = .ok u) ∨
      ((∀ u : HPV, u.canonical = true → u.toRat ≠ f) ∧ v.s = true ∧
        hpFrac B v = .error .fracNotRepresentable))

/-- R60: the scaling is the exact floor of `f * 2^B`, below `2^B`. -/
def Obligations.ScaleIsExactFloor : Prop :=
  ∀ (B : Nat) (f : HPV), 0 ≤ f.toRat → f.toRat < 1 →
    ((scaleB B f : Nat) : ℤ) = ⌊f.toRat * 2 ^ B⌋ ∧ scaleB B f < 2 ^ B

/-- `exp` is correctly rounded (from R59, R53): its enclosures hold the exact value, at every precision and
every rational argument, and `hpExp` of every value is the rounding of the exact exponential, or DETAIL 1
where that is out of the exponent range. -/
def Obligations.ExpEnclosureContainsExp : Prop :=
  (∀ (d : Nat) (x : ℚ), ((expEnc d x).lo : ℝ) ≤ Real.exp x ∧ Real.exp x ≤ ((expEnc d x).hi : ℝ)) ∧
  (∀ v : HPV, v.canonical = true → ∃ r : HPV, IsRounding (Real.exp (v.toRat : ℝ)) r ∧
    hpExp v = if -32768 ≤ r.e ∧ r.e ≤ 32767 then .ok r else .error .expRange)

/-- `ln` is correctly rounded (from R59): its enclosures hold the exact value, at every precision and every
positive rational argument, and `hpLn` of every positive value is the rounding of the exact logarithm. -/
def Obligations.LnEnclosureContainsLog : Prop :=
  (∀ (d : Nat) (x : ℚ), 0 < x →
    ((lnEnc d x).lo : ℝ) ≤ Real.log x ∧ Real.log x ≤ ((lnEnc d x).hi : ℝ)) ∧
  (∀ v : HPV, v.canonical = true → 0 < v.toRat →
    ∃ r : HPV, IsRounding (Real.log (v.toRat : ℝ)) r ∧ hpLn v = .ok r)

/-- `cos` is correctly rounded and never raises (from R59): its enclosures hold the exact value, at every
precision and every rational argument, and `hpCos` of every value is the rounding of the exact cosine. -/
def Obligations.CosEnclosureContainsCos : Prop :=
  (∀ (d : Nat) (x : ℚ), ((cosEnc d x).lo : ℝ) ≤ Real.cos x ∧ Real.cos x ≤ ((cosEnc d x).hi : ℝ)) ∧
  (∀ v : HPV, ∃ r : HPV, IsRounding (Real.cos (v.toRat : ℝ)) r ∧ hpCos v = .ok r)

/-- A rounding that an enclosure decides is the correct rounding of every real number the enclosure holds,
and no value of the format is nearer to a number than its rounding (from R59, R52). -/
def Obligations.DecidedRoundingIsNearest : Prop :=
  (∀ (I : Enclosure) (y : ℝ) (v : HPV), (I.lo : ℝ) ≤ y → y ≤ (I.hi : ℝ) → settle I = some v →
    IsRounding y v) ∧
  (∀ (f : Nat → Enclosure) (ds : List Nat) (y : ℝ) (v : HPV),
    (∀ d ∈ ds, ((f d).lo : ℝ) ≤ y ∧ y ≤ ((f d).hi : ℝ)) → ziv f ds = some v → IsRounding y v) ∧
  (∀ (y : ℝ) (v u : HPV), IsRounding y v → u.canonical = true →
    |(v.toRat : ℝ) - y| ≤ |(u.toRat : ℝ) - y|)

/-- `ln` of a value that is not positive raises DETAIL 4, `ln 1` is exactly 0, and `exp` of a value of size
`10^6` or more is beyond the exponent range (from R59). -/
def Obligations.ElementaryCornerCases : Prop :=
  (∀ v : HPV, v.canonical = true → v.toRat ≤ 0 → hpLn v = .error .lnDomain) ∧
  (∀ v : HPV, v.canonical = true → v.toRat = 1 → hpLn v = .ok ⟨false, 0, 0⟩) ∧
  (∀ v : HPV, v.canonical = true → 1000000 ≤ |v.toRat| →
    hpExp v = .error .expRange ∧
    (0 < v.toRat → (10 : ℝ) ^ (32868 : ℤ) ≤ Real.exp v.toRat) ∧
    (v.toRat < 0 → Real.exp v.toRat ≤ (10 : ℝ) ^ (-32670 : ℤ)))

/-! ### The evaluator, the converter and the packer (42_generation.md) -/

/-- `MIX_V2` (from R80, R105): it succeeds with `x` exactly when eight Weyl steps in the order of the bank lead
from 0 to `x`, each with the exact power `n^k` rounded, one rounded product, one rounded sum and one checked
`FRAC`; and it raises `err` exactly when the steps before some step succeed and the first operation of that
step that fails raises `err`. -/
def Obligations.MixV2IsEightWeylSteps : Prop :=
  ∀ (B : Nat) (k : ConstantBank) (n : Int),
    let C : Nat → HPV := fun j => [k.e, k.pi, k.phi, k.sqrt2, k.sqrt3, k.gamma, k.delta, k.rho].getD j k.e
    let weyl : Nat → HPV → HPV → Prop := fun j a b =>
      ∃ p t u : HPV, roundP ((n ^ (j + 1) : ℤ) : ℚ) = .ok p ∧ roundP ((C j).toRat * p.toRat) = .ok t ∧
        roundP (a.toRat + t.toRat) = .ok u ∧ hpFrac B u = .ok b
    let fails : Nat → HPV → ArithError → Prop := fun j a err =>
      roundP ((n ^ (j + 1) : ℤ) : ℚ) = .error err ∨
        ∃ p, roundP ((n ^ (j + 1) : ℤ) : ℚ) = .ok p ∧ (roundP ((C j).toRat * p.toRat) = .error err ∨
          ∃ t, roundP ((C j).toRat * p.toRat) = .ok t ∧ (roundP (a.toRat + t.toRat) = .error err ∨
            ∃ u, roundP (a.toRat + t.toRat) = .ok u ∧ hpFrac B u = .error err))
    (∀ x : HPV, mixV2 B k n = .ok x ↔
      ∃ acc : Nat → HPV, (acc 0).toRat = 0 ∧ acc 8 = x ∧ ∀ j : Nat, j < 8 → weyl j (acc j) (acc (j + 1))) ∧
    (∀ err : ArithError, mixV2 B k n = .error err ↔
      ∃ (acc : Nat → HPV) (m : Nat), m < 8 ∧ (acc 0).toRat = 0 ∧
        (∀ j : Nat, j < m → weyl j (acc j) (acc (j + 1))) ∧ fails m (acc m) err)

/-- `MIX_V1` (from R81, R105): it succeeds with `r` exactly when every operation of the rule, each rounded once
and taken in the rule's order, succeeds and the product of the seven terms from left to right is `r`; and it
raises `err` exactly when the operations before some operation succeed and that one raises `err`. With
`v 0, v 1, ...` for the results in order, `op v` lists the operations: `X`; `a`, `b`, `c`, `t1`; `y`, `u`, `w`,
`v`, `t2`; the products and fractional parts of `t3` and `t4`; `1 + X` and `t5`; those of `t6` and `t7`; the six
multiplications. So an index from 75680 on raises DETAIL 1, because `exp` does, and DETAIL 4 is unreachable. -/
def Obligations.MixV1IsTheSevenTermProduct : Prop :=
  (∀ (B : Nat) (k : ConstantBank) (n : Int) (r : HPV),
    mixV1 B k n = .ok r ↔
      ∃ X a b c y u w v z m3 m4 m6 m7 t1 t2 t3 t4 t5 t6 t7 p2 p3 p4 p5 p6 : HPV,
        roundP (n : ℚ) = .ok X ∧
        (hpExp X = .ok a ∧ roundP (k.pi.toRat * X.toRat) = .ok b ∧ hpCos b = .ok c ∧
          roundP (a.toRat - c.toRat) = .ok t1) ∧
        (roundP ((n ^ 2 : ℤ) : ℚ) = .ok y ∧ roundP (k.phi.toRat * y.toRat) = .ok u ∧
          roundP (k.phi.toRat * X.toRat) = .ok w ∧ roundP (u.toRat - w.toRat) = .ok v ∧
          roundP (v.toRat - 1) = .ok t2) ∧
        (roundP (X.toRat * k.sqrt2.toRat) = .ok m3 ∧ hpFrac B m3 = .ok t3) ∧
        (roundP (X.toRat * k.sqrt3.toRat) = .ok m4 ∧ hpFrac B m4 = .ok t4) ∧
        (roundP (1 + X.toRat) = .ok z ∧ hpLn z = .ok t5) ∧
        (roundP (X.toRat * k.delta.toRat) = .ok m6 ∧ hpFrac B m6 = .ok t6) ∧
        (roundP (X.toRat * k.rho.toRat) = .ok m7 ∧ hpFrac B m7 = .ok t7) ∧
        roundP (t1.toRat * t2.toRat) = .ok p2 ∧ roundP (p2.toRat * t3.toRat) = .ok p3 ∧
        roundP (p3.toRat * t4.toRat) = .ok p4 ∧ roundP (p4.toRat * t5.toRat) = .ok p5 ∧
        roundP (p5.toRat * t6.toRat) = .ok p6 ∧ roundP (p6.toRat * t7.toRat) = .ok r) ∧
  (∀ (B : Nat) (k : ConstantBank) (n : Int) (err : ArithError),
    let op : (Nat → HPV) → List (Except ArithError HPV) := fun v =>
      [roundP (n : ℚ),
        hpExp (v 0), roundP (k.pi.toRat * (v 0).toRat), hpCos (v 2), roundP ((v 1).toRat - (v 3).toRat),
        roundP ((n ^ 2 : ℤ) : ℚ), roundP (k.phi.toRat * (v 5).toRat), roundP (k.phi.toRat * (v 0).toRat),
        roundP ((v 6).toRat - (v 7).toRat), roundP ((v 8).toRat - 1),
        roundP ((v 0).toRat * k.sqrt2.toRat), hpFrac B (v 10),
        roundP ((v 0).toRat * k.sqrt3.toRat), hpFrac B (v 12),
        roundP (1 + (v 0).toRat), hpLn (v 14),
        roundP ((v 0).toRat * k.delta.toRat), hpFrac B (v 16),
        roundP ((v 0).toRat * k.rho.toRat), hpFrac B (v 18),
        roundP ((v 4).toRat * (v 9).toRat), roundP ((v 20).toRat * (v 11).toRat),
        roundP ((v 21).toRat * (v 13).toRat), roundP ((v 22).toRat * (v 15).toRat),
        roundP ((v 23).toRat * (v 17).toRat), roundP ((v 24).toRat * (v 19).toRat)]
    mixV1 B k n = .error err ↔
      ∃ (v : Nat → HPV) (m : Nat),
        (∀ j : Nat, j < m → (op v)[j]? = some (.ok (v j))) ∧ (op v)[m]? = some (.error err)) ∧
  (∀ (B : Nat) (k : ConstantBank) (n : Int), 75680 ≤ n → n ≤ 2147483647 →
    mixV1 B k n = .error .expRange ∧ ArithError.expRange.detail = 1#8) ∧
  (∀ (B : Nat) (k : ConstantBank) (n : Int), 1 ≤ n →
    mixV1 B k n ≠ .error .lnDomain ∧ ArithError.lnDomain.detail = 4#8)

/-- The ROM (from R63 to R66). The entries of e, π, φ, √2, √3 and ρ are the nearest values of 100 significant
digits: each is within half a unit of its last digit of the exact constant, and ρ is the real root of
`x³ = x + 1`. The entries of γ and δ are the digits of R64's table, those of LEGACY mode the default literals
of R66 (log entry 7), and every entry is canonical. -/
def Obligations.RomConstantsAreNearest : Prop :=
  let half : ℝ := 1 / 2 * (10 : ℝ) ^ (-99 : ℤ)
  (∀ m : ConstMode,
    |((rom m).e.toRat : ℝ) - Real.exp 1| ≤ half ∧
    |((rom m).pi.toRat : ℝ) - Real.pi| ≤ half ∧
    |((rom m).phi.toRat : ℝ) - (1 + √5) / 2| ≤ half ∧
    |((rom m).sqrt2.toRat : ℝ) - √2| ≤ half ∧
    |((rom m).sqrt3.toRat : ℝ) - √3| ≤ half) ∧
  (∀ x : ℝ, x ^ 3 = x + 1 → |((rom .full).rho.toRat : ℝ) - x| ≤ half) ∧
  (rom .full).gamma.toRat * 10 ^ 100 =
    5772156649015328606065120900824024310421593359399235988057672348848677267776646709369470632917467495 ∧
  (rom .full).delta.toRat * 10 ^ 99 =
    4669201609102990671853203820466201617258185577475768632745651343004134330211314737138689744023948014 ∧
  ((rom .legacy).gamma.toRat = 5772156649 / 10 ^ 10 ∧ (rom .legacy).delta.toRat = 4669201609 / 10 ^ 9 ∧
    (rom .legacy).rho.toRat = 1324717957 / 10 ^ 9) ∧
  (∀ (m : ConstMode) (c : ConstName), (bankGet (rom m) c).canonical = true)

/-- A V2 result lies in `[0, 1)` and is canonical, and with the ROM constants the only error of V2 at a legal
index is the precision check (from R80). -/
def Obligations.WeylResultsAreFractions : Prop :=
  (∀ (B : Nat) (k : ConstantBank) (n : Int) (x : HPV), mixV2 B k n = .ok x →
    0 ≤ x.toRat ∧ x.toRat < 1 ∧ x.canonical = true) ∧
  (∀ (B : Nat) (m : ConstMode) (n : Int) (err : ArithError), 1 ≤ n → n ≤ 2147483647 →
    mixV2 B (rom m) n = .error err → err = .precisionLoss)

/-- The order of the checks of an evaluation, and what its results are (from R82, R86, R100): the use-site
precision check, then the index check, then the arithmetic, whose errors have code 3, the DETAIL of their
cause and the index; a success reports the mixing result, its floor, its fractional part, the scaled value and
its length. `ACT.MIX` selects the mixing function. -/
def Obligations.EvaluationIsMixThenExtract : Prop :=
  (ErrorCode.precisionMismatch.code = 1#8 ∧ ErrorCode.invalidRoundIndex.code = 2#8 ∧
    ErrorCode.arithmetic.code = 3#8 ∧
    ArithError.expRange.detail = 1#8 ∧ ArithError.precisionLoss.detail = 2#8 ∧
    ArithError.fracNotRepresentable.detail = 3#8 ∧ ArithError.lnDomain.detail = 4#8) ∧
  ∀ (a : ActiveConfig) (k : ConstantBank) (n : Int),
    (a.mix = .v2 → mix a k n = mixV2 a.b.toNat k n) ∧
    (a.mix = .v1 → mix a k n = mixV1 a.b.toNat k n) ∧
    (a.p ≠ 100#8 → evaluate a k n = .error ⟨.precisionMismatch, 0#8, BitVec.ofInt 32 n⟩) ∧
    (a.p = 100#8 → n ≤ 0 → evaluate a k n = .error ⟨.invalidRoundIndex, 0#8, BitVec.ofInt 32 n⟩) ∧
    (a.p = 100#8 → 0 < n → ∀ err, mix a k n = .error err →
      evaluate a k n = .error ⟨.arithmetic, err.detail, BitVec.ofInt 32 n⟩) ∧
    (a.p = 100#8 → 0 < n → ∀ r err, mix a k n = .ok r → hpFrac a.b.toNat r = .error err →
      evaluate a k n = .error ⟨.arithmetic, err.detail, BitVec.ofInt 32 n⟩) ∧
    (a.p = 100#8 → 0 < n → ∀ r f, mix a k n = .ok r → hpFrac a.b.toNat r = .ok f →
      evaluate a k n = .ok ⟨r, hpFloor r, f, BitVec.ofNat 128 (scaleB a.b.toNat f),
        lenOf a.pad a.b.toNat (scaleB a.b.toNat f)⟩)

/-- Every successful evaluation splits its MixResult exactly: the published integer part and fractional part
add up to it, the fractional part lies in `[0, 1)`, the scaled value is below `2^B`, and the length lies in
`1..B` (from R82, R94). -/
def Obligations.PublishedPartsAddUp : Prop :=
  ∀ (a : ActiveConfig) (k : ConstantBank) (n : Int) (r : EvalResult),
    1 ≤ a.b.toNat → a.b.toNat ≤ 128 → r.mixres.canonical = true → evaluate a k n = .ok r →
    r.intpart.toRat + r.fracp.toRat = r.mixres.toRat ∧ 0 ≤ r.fracp.toRat ∧ r.fracp.toRat < 1 ∧
      r.scaled.toNat < 2 ^ a.b.toNat ∧ 1 ≤ r.len ∧ r.len ≤ a.b.toNat

/-- R83: the length of a digit string and its digits. -/
def Obligations.DigitStringIsTheBinaryRendering : Prop :=
  (∀ (B m : Nat), lenOf .fixed B m = B ∧ lenOf .minimal B 0 = 1 ∧
    (1 ≤ m → m < 2 ^ lenOf .minimal B m ∧ 2 ^ (lenOf .minimal B m - 1) ≤ m)) ∧
  (∀ (pad : PadMode) (B m : Nat), 1 ≤ B → m < 2 ^ B → 1 ≤ lenOf pad B m ∧ lenOf pad B m ≤ B) ∧
  (∀ (L : Nat) (x : BitVec 128), (digitString L x).length = L ∧
    ∀ i : Nat, i < L → (digitString L x).getD i false = x.getLsbD (L - 1 - i)) ∧
  (∀ (pad : PadMode) (B : Nat) (x : BitVec 128), 1 ≤ B → B ≤ 128 → x.toNat < 2 ^ B →
    bitsValue (digitString (lenOf pad B x.toNat) x) = x.toNat) ∧
  (∀ (B : Nat) (x : BitVec 128),
    (x = 0#128 → digitString (lenOf .minimal B x.toNat) x = [false]) ∧
    (x ≠ 0#128 → (digitString (lenOf .minimal B x.toNat) x).head? = some true))

/-- R85: the aggregation. `V` is the integer the bitstream denotes, its first bit most significant. -/
def Obligations.AggregateIsTheHexadecimalInteger : Prop :=
  ∀ s : State,
    let L := s.bs.length
    let V := ∑ j ∈ Finset.range L, (s.bs.getD j false).toNat * 2 ^ (L - 1 - j)
    let t := aggregate s
    t.state = .done ∧ t.bs = s.bs ∧
    (L = 0 → t.hx = []) ∧
    (L ≠ 0 → V = 0 → t.hx = [0#4]) ∧
    (L ≠ 0 → V ≠ 0 →
      t.hx.length = (Nat.log2 V + 1 + 3) / 4 ∧ t.hx.head? ≠ some 0#4 ∧
      ∀ d : Nat, d < t.hx.length →
        (t.hx.getD d 0#4).toNat = V / 2 ^ (4 * (t.hx.length - 1 - d)) % 16) ∧
    (L ≤ 32768 → t.hx.length ≤ 8192)

/-- The hexadecimal digits give the bitstream back: read as an integer and written in binary with as many
digits as the stream has, they are the stream (from R94). -/
def Obligations.HexRoundTrip : Prop :=
  ∀ bits : List Bool,
    let V := (aggregateDigits bits).foldl (fun v x => 16 * v + x.toNat) 0
    (List.range bits.length).map (fun i => Nat.testBit V (bits.length - 1 - i)) = bits

/-- The length laws of a run (from R93): padded rounds give `m * B` bits, unpadded ones at most that. -/
def Obligations.StreamLengthLaws : Prop :=
  ∀ (a : ActiveConfig) (k : ConstantBank) (m : Nat) (b : List Bool),
    1 ≤ a.b.toNat → streamOf a k m = some b →
    (a.pad = .fixed → b.length = m * a.b.toNat) ∧ b.length ≤ m * a.b.toNat ∧ m ≤ b.length

/-! ### The commands: completion, result and frame -/

/-- R70: `NOP` completes in every state with no effect; `BUSY` falls and `DONE_P` is not set. -/
def Obligations.NopHasNoEffect : Prop :=
  ∀ s : State, exec .nop s = .next { s with inFlight := none }

/-- `INIT` in IDLE with the supported precision and a legal width starts a run (from R71): `ACT` is latched,
the bank is loaded from the ROM of the constant mode, the counters and buffers are cleared. -/
def Obligations.InitStartsARun : Prop :=
  ∀ s : State, s.state = .idle → s.config.prec = 100#8 → 1 ≤ s.config.bits.toNat →
    s.config.bits.toNat ≤ 128 →
    exec .init s = .next { s with
      act := some ⟨s.config.prec, s.config.bits, s.config.mix, s.config.cmode, s.config.pad, s.roundCount⟩
      bank := some (rom s.config.cmode)
      roundsDone := 0#32
      nextIdx := 1#32
      bs := []
      hx := []
      state := .ready
      irqStat := s.irqStat ||| 1#2
      inFlight := none }

/-- `INIT` in IDLE with another precision raises `PrecisionMismatch` before any constant is loaded, whatever
the width; with the right precision and a width outside 1..128 it raises `ConfigInvalid` (from R71, R74,
R105). -/
def Obligations.InitRefusesBadConfiguration : Prop :=
  ∀ s : State, s.state = .idle →
    let failed (code detail : BitVec 8) : State := { s with
      state := .error, errCode := code, errDetail := detail, errOpc := 1#8, errIdx := 0#32, bs := [],
      hx := [], irqStat := s.irqStat ||| 2#2, inFlight := none }
    (s.config.prec ≠ 100#8 → exec .init s = .next (failed 1#8 0#8)) ∧
    (s.config.prec = 100#8 → (s.config.bits.toNat < 1 ∨ 128 < s.config.bits.toNat) →
      exec .init s = .next (failed 4#8 1#8))

/-- `GETC` in READY or DONE copies the selected bank entry to `CVAL` and changes nothing else but the
completion bits (from R72, R25). -/
def Obligations.GetcCopiesTheConstant : Prop :=
  ∀ (s : State) (k : ConstantBank), (s.state = .ready ∨ s.state = .done) → s.bank = some k →
    ∀ c : ConstName,
      exec (.getc c) s = .next { s with
        cval := some (match c with
          | .e => k.e | .pi => k.pi | .phi => k.phi | .sqrt2 => k.sqrt2
          | .sqrt3 => k.sqrt3 | .gamma => k.gamma | .delta => k.delta | .rho => k.rho)
        irqStat := s.irqStat ||| 1#2
        inFlight := none }

/-- R73: `CLEAR` completes in every state. -/
def Obligations.ClearEndsTheRun : Prop :=
  ∀ s : State, exec .clear s = .next { s with
    state := .idle, bank := none, act := none, roundsDone := 0#32, nextIdx := 0#32, bs := [], hx := [],
    errCode := 0#8, errDetail := 0#8, errOpc := 0#8, errIdx := 0#32, lastIdx := 0#32, lastLen := 0#32,
    scaled := 0#128, mixres := none, intpart := none, fracp := none, cval := none, cmdOvr := false,
    wlock := false, cmdIgn := false, irqStat := s.irqStat ||| 1#2, inFlight := none }

/-- `EVAL` in READY or DONE evaluates the signed index of `EVAL_ARG` and publishes it all at once; state,
bitstream, aggregate and counters stay (from R86, R87). -/
def Obligations.EvalPublishesOneIndex : Prop :=
  ∀ (s : State) (a : ActiveConfig) (k : ConstantBank) (r : EvalResult),
    (s.state = .ready ∨ s.state = .done) → s.act = some a → s.bank = some k →
    evaluate a k s.evalArg.toInt = .ok r →
    exec .eval s = .next { s with
      lastIdx := s.evalArg
      mixres := some r.mixres
      intpart := some r.intpart
      fracp := some r.fracp
      scaled := r.scaled
      lastLen := BitVec.ofNat 32 r.len
      irqStat := s.irqStat ||| 1#2
      inFlight := none }

/-- A failing `EVAL` publishes nothing and enters ERROR with the failing index; an index of 0 or below fails
with `InvalidRoundIndex`, an arithmetic error with code 3 and the DETAIL of its cause (from R87, R100,
R102). -/
def Obligations.FailingEvalPublishesNothing : Prop :=
  ∀ (s : State) (a : ActiveConfig) (k : ConstantBank),
    (s.state = .ready ∨ s.state = .done) → s.act = some a → s.bank = some k →
    (∀ e : Raise, evaluate a k s.evalArg.toInt = .error e →
      exec .eval s = .next { s with
        state := .error, errCode := e.code.code, errDetail := e.detail, errOpc := 3#8,
        errIdx := s.evalArg, bs := [], hx := [], irqStat := s.irqStat ||| 2#2, inFlight := none }) ∧
    (a.p = 100#8 → s.evalArg.toInt ≤ 0 →
      exec .eval s = .next { s with
        state := .error, errCode := 2#8, errDetail := 0#8, errOpc := 3#8,
        errIdx := s.evalArg, bs := [], hx := [], irqStat := s.irqStat ||| 2#2, inFlight := none }) ∧
    (∀ err : ArithError, evaluate a k s.evalArg.toInt = .error ⟨.arithmetic, err.detail, s.evalArg⟩ →
      exec .eval s = .next { s with
        state := .error, errCode := 3#8
        errDetail := (match err with
          | .expRange => 1#8 | .precisionLoss => 2#8 | .fracNotRepresentable => 3#8 | .lnDomain => 4#8)
        errOpc := 3#8, errIdx := s.evalArg, bs := [], hx := [], irqStat := s.irqStat ||| 2#2,
        inFlight := none })

/-- `STEP` in READY with rounds left runs one round at `NEXT_IDX`: it publishes the evaluation, appends its
digit string and advances both counters (from R84, R88). -/
def Obligations.StepAppendsOneRound : Prop :=
  ∀ (s : State) (a : ActiveConfig) (k : ConstantBank) (r : EvalResult),
    s.state = .ready → s.act = some a → s.bank = some k → s.roundsDone.toNat < a.rc.toNat →
    evaluate a k (s.nextIdx.toNat : ℤ) = .ok r → s.bs.length + r.len ≤ 32768 →
    exec .step s = .next { s with
      lastIdx := s.nextIdx
      mixres := some r.mixres
      intpart := some r.intpart
      fracp := some r.fracp
      scaled := r.scaled
      lastLen := BitVec.ofNat 32 r.len
      bs := s.bs ++ (List.range r.len).map (fun i => r.scaled.getLsbD (r.len - 1 - i))
      roundsDone := s.roundsDone + 1#32
      nextIdx := s.nextIdx + 1#32
      irqStat := s.irqStat ||| 1#2
      inFlight := none }

/-- The three ways `STEP` in READY fails (from R84, R88, R102): no rounds left, a failing evaluation, an
append past the capacity. Counters and result registers stay. -/
def Obligations.FailingStepKeepsCounters : Prop :=
  ∀ (s : State) (a : ActiveConfig) (k : ConstantBank),
    s.state = .ready → s.act = some a → s.bank = some k →
    let failed (code detail : BitVec 8) (idx : Word) : State := { s with
      state := .error, errCode := code, errDetail := detail, errOpc := 4#8, errIdx := idx, bs := [],
      hx := [], irqStat := s.irqStat ||| 2#2, inFlight := none }
    (a.rc.toNat ≤ s.roundsDone.toNat → exec .step s = .next (failed 6#8 1#8 0#32)) ∧
    (s.roundsDone.toNat < a.rc.toNat → ∀ e : Raise, evaluate a k (s.nextIdx.toNat : ℤ) = .error e →
      exec .step s = .next (failed e.code.code e.detail s.nextIdx)) ∧
    (s.roundsDone.toNat < a.rc.toNat → ∀ r, evaluate a k (s.nextIdx.toNat : ℤ) = .ok r →
      32768 < s.bs.length + r.len → exec .step s = .next (failed 7#8 0#8 s.nextIdx))

/-- `RUN` from a sound READY state generates the whole stream and aggregates it, when every remaining round
succeeds and the stream fits (from R89). The rounds done before it are those of the stream already. -/
def Obligations.RunGeneratesTheWholeStream : Prop :=
  ∀ (s : State) (b : List Bool), Inv s → s.state = .ready →
    streamOf (latchConfig s) (rom s.config.cmode) s.roundCount.toNat = some b → b.length ≤ 32768 →
    ∃ t, exec .run s = .next t ∧ t.state = .done ∧ t.bs = b ∧ t.hx = aggregateDigits b ∧
      t.roundsDone.toNat = s.roundCount.toNat ∧ t.nextIdx.toNat = s.roundCount.toNat + 1 ∧
      t.irqStat = s.irqStat ||| 1#2 ∧ t.inFlight = none ∧
      (s.roundsDone.toNat < s.roundCount.toNat →
        t.lastIdx.toNat = s.roundCount.toNat ∧
        ∃ r, evaluate (latchConfig s) (rom s.config.cmode) (s.roundCount.toNat : ℤ) = .ok r ∧
          t.mixres = some r.mixres ∧ t.intpart = some r.intpart ∧ t.fracp = some r.fracp ∧
          t.scaled = r.scaled ∧ t.lastLen.toNat = r.len) ∧
      (s.roundsDone.toNat = s.roundCount.toNat →
        t.lastIdx = s.lastIdx ∧ t.lastLen = s.lastLen ∧ t.scaled = s.scaled ∧ t.mixres = s.mixres ∧
          t.intpart = s.intpart ∧ t.fracp = s.fracp) ∧
      t.config = s.config ∧ t.roundCount = s.roundCount ∧ t.evalArg = s.evalArg ∧ t.act = s.act ∧
      t.bank = s.bank ∧ t.cval = s.cval ∧ t.irqEn = s.irqEn ∧ t.cmdOvr = s.cmdOvr ∧ t.wlock = s.wlock ∧
      t.cmdIgn = s.cmdIgn ∧ t.errCode = s.errCode ∧ t.errDetail = s.errDetail ∧ t.errOpc = s.errOpc ∧
      t.errIdx = s.errIdx ∧ t.inputs = s.inputs

/-- `RUN` is `STEP` repeated, as one command (from R89, R102, R105). Take any chain of successful `STEP`s
from the state. When they have done all rounds, `RUN` ends where they end, aggregated. When the next `STEP`
fails with rounds still missing, `RUN` ends as that `STEP` does, with its own opcode in `ERR.OPC`: it stops at
the lowest failing round, keeps the counters and results of the rounds before it, and aggregates nothing. -/
def Obligations.RunIsRepeatedStep : Prop :=
  ∀ (s : State) (u : Nat → State) (m : Nat) (a : ActiveConfig) (k : ConstantBank),
    s.state = .ready → s.act = some a → s.bank = some k → u 0 = s →
    (∀ j : Nat, j < m → exec .step (u j) = .next (u (j + 1)) ∧ (u (j + 1)).state = .ready) →
    (a.rc.toNat ≤ (u m).roundsDone.toNat →
      exec .run s = .next { u m with
        hx := aggregateDigits (u m).bs, state := .done, irqStat := s.irqStat ||| 1#2, inFlight := none }) ∧
    (∀ e : State, (u m).roundsDone.toNat < a.rc.toNat → exec .step (u m) = .next e → e.state = .error →
      exec .run s = .next { e with errOpc := 5#8, irqStat := s.irqStat ||| 2#2 })

/-- `FINAL` in READY aggregates when all rounds are done, and raises `SequenceError` with DETAIL 1 when
rounds are missing (from R90). -/
def Obligations.FinalAggregatesAfterAllRounds : Prop :=
  ∀ (s : State) (a : ActiveConfig), s.state = .ready → s.act = some a →
    (s.roundsDone.toNat = a.rc.toNat →
      exec .final s = .next { s with
        hx := aggregateDigits s.bs, state := .done, irqStat := s.irqStat ||| 1#2, inFlight := none }) ∧
    (s.roundsDone.toNat ≠ a.rc.toNat →
      exec .final s = .next { s with
        state := .error, errCode := 6#8, errDetail := 1#8, errOpc := 6#8, errIdx := 0#32, bs := [],
        hx := [], irqStat := s.irqStat ||| 2#2, inFlight := none })

/-- What each command may change of what the host can read: every word of the register window outside the
registers of `mayChange` (for a command that ends in ERROR, of `mayChangeOnError`) reads after the command
what it read before ("Flags and status written" of R70 to R73 and R87 to R90, and R102). -/
def Obligations.WindowFrameOfEveryCommand : Prop :=
  ∀ (i : Instr) (s t : State), exec i s = .next t →
    ∀ off : Nat, off < 0x4000 →
      (t.state ≠ .error → mayChange i (regAt off) = false → windowByte t off = windowByte s off) ∧
      (t.state = .error → mayChangeOnError i (regAt off) = false → windowByte t off = windowByte s off)

/-! ### Acceptance, errors and their exit (60_exceptions.md) -/

/-- Outside ERROR a command word that may not execute raises (from R43, R100, R102, R104): an illegal word
raises `IllegalCommand` with the DETAIL of decoding and the opcode field of the word, and a command outside its
legal states raises `SequenceError` with the state as DETAIL. -/
def Obligations.RefusedCommandsRaise : Prop :=
  ∀ s : State,
    let raised (code detail opc : BitVec 8) : State := { s with
      state := .error, errCode := code, errDetail := detail, errOpc := opc, errIdx := 0#32, bs := [],
      hx := [], irqStat := s.irqStat ||| 2#2, inFlight := none }
    (∀ (w : Word) (d : BitVec 8), s.state ≠ .error → decode w = .illegal d →
      runCommand w s = .next (raised 5#8 d (w.extractLsb' 0 8))) ∧
    (∀ i : Instr,
      ((i = .init ∧ (s.state = .ready ∨ s.state = .done)) ∨
        ((i = .eval ∨ ∃ c, i = .getc c) ∧ s.state = .idle) ∨
        ((i = .step ∨ i = .run ∨ i = .final) ∧ (s.state = .idle ∨ s.state = .done))) →
      exec i s = .next (raised 6#8
        (match s.state with | .idle => 0#8 | .ready => 1#8 | .done => 2#8 | .error => 3#8) (opcode i)))

/-- In ERROR every command but `NOP` and `CLEAR` is ignored and sets `CMD_IGN`, and so is every illegal word;
no error is raised there (from R103, R104). The rules ignore the word at its `CMD` write, which is
WriteAcceptance; this is what the model does with a word that is in flight in ERROR all the same, as only
`withFetchWord` makes one (log entry 11). -/
def Obligations.ErrorStateIgnoresCommands : Prop :=
  ∀ s : State, s.state = .error →
    (∀ i : Instr, i ≠ .nop → i ≠ .clear →
      exec i s = .next { s with cmdIgn := true, inFlight := none }) ∧
    (∀ (w : Word) (d : BitVec 8), decode w = .illegal d →
      runCommand w s = .next { s with cmdIgn := true, inFlight := none })

/-- Only `CLEAR` and reset leave ERROR, and the recorded error stays until then (from R103). -/
def Obligations.OnlyClearOrResetLeavesError : Prop :=
  ∀ s t : State, s.state = .error → step s = .next t →
    (t.state = .error ∧ t.errCode = s.errCode ∧ t.errDetail = s.errDetail ∧ t.errOpc = s.errOpc ∧
      t.errIdx = s.errIdx) ∨
    (t.state = .idle ∧ ((∃ rest, s.inputs = .rst :: rest) ∨ s.inFlight = some 0x00000007#32))

/-- Outside IDLE no step but a reset changes `CONFIG`, `ROUND_COUNT`, and, but for `CLEAR` and reset, an open
session stays as it is: the configuration cannot change between `INIT` and `CLEAR` (from R12, R25, R28,
R125). -/
def Obligations.ConfigurationIsLockedDuringARun : Prop :=
  ∀ s t : State, s.state ≠ .idle → step s = .next t → (∀ rest, s.inputs ≠ .rst :: rest) →
    t.config = s.config ∧ t.roundCount = s.roundCount ∧
      (t.state ≠ .idle → t.act = s.act ∧ t.bank = s.bank)

/-- The results of `EVAL` depend only on the index, `ACT` and the bank: two states that agree on these
publish the same registers or report the same error, whatever was evaluated or appended before
(from R92). -/
def Obligations.EvaluationDependsOnlyOnIndexAndSession : Prop :=
  ∀ s₁ s₂ t₁ t₂ : State,
    (s₁.state = .ready ∨ s₁.state = .done) → (s₂.state = .ready ∨ s₂.state = .done) →
    s₁.act = s₂.act → s₁.bank = s₂.bank → s₁.evalArg = s₂.evalArg →
    exec .eval s₁ = .next t₁ → exec .eval s₂ = .next t₂ →
    (t₁.state = .error ↔ t₂.state = .error) ∧
    (t₁.state ≠ .error → t₁.lastIdx = t₂.lastIdx ∧ t₁.lastLen = t₂.lastLen ∧ t₁.scaled = t₂.scaled ∧
      t₁.mixres = t₂.mixres ∧ t₁.intpart = t₂.intpart ∧ t₁.fracp = t₂.fracp) ∧
    (t₁.state = .error → t₁.errCode = t₂.errCode ∧ t₁.errDetail = t₂.errDetail ∧ t₁.errIdx = t₂.errIdx)

/-! ### The whole machine -/

/-- When the command in flight completes and its word decodes to a command, the step is that command's
meaning, with the input consumed; with no input left the engine completes it by itself. A command placed by
`withFetchWord` is the one the very next step runs. -/
def Obligations.StepRunsTheDecodedCommand : Prop :=
  (∀ (s : State) (w : Word) (i : Instr) (rest : List Input), s.inFlight = some w → decode w = .command i →
    (s.inputs = .complete :: rest → step s = exec i { s with inputs := rest }) ∧
    (s.inputs = [] → step s = exec i s)) ∧
  (∀ (s : State) (i : Instr),
    step (s.withFetchWord 32 (encode i).toNat) = exec i { s with inFlight := some (encode i) })

/-- Reset satisfies the invariant, whatever the outside will do. -/
def Obligations.ResetSatisfiesTheInvariant : Prop :=
  ∀ inputs : List Input, Inv { State.reset with inputs := inputs }

/-- Every step keeps the invariant: the states' session, counters, bitstream, aggregate, results and errors
stay consistent, the buffers stay within capacity, and the result registers hold one evaluation. -/
def Obligations.EveryStepKeepsTheInvariant : Prop :=
  ∀ s t : State, Inv s → step s = .next t → Inv t

/-- A sound state always has a next state: no step of a run faults or is refused (from R104: "Each command
completes or raises. It never stalls or completes partly"). -/
def Obligations.SoundStatesNeverStop : Prop :=
  ∀ s : State, Inv s → ∃ t, step s = .next t

/-- In every reachable READY or DONE state, the bitstream is the concatenation of the digit strings of
rounds 1 to `ROUNDS_DONE` under the latched configuration, `NEXT_IDX` is one more than `ROUNDS_DONE`, and in
DONE the aggregate is that of the whole stream (from R19, R84, R85, R93). -/
def Obligations.ReachableBitstreamIsTheRounds : Prop :=
  ∀ s : State, Reachable s → (s.state = .ready ∨ s.state = .done) →
    ∃ a k, s.act = some a ∧ s.bank = some k ∧ k = rom a.cmode ∧
      streamOf a k s.roundsDone.toNat = some s.bs ∧ s.nextIdx.toNat = s.roundsDone.toNat + 1 ∧
      (s.state = .done → s.roundsDone.toNat = a.rc.toNat ∧ s.hx = aggregateDigits s.bs)

/-- The engine holds its state when the outside does nothing and no command is in flight, and a sound state
with a command in flight completes it (from R114, R128): with no input left, one step ends every busy period.
That it takes one step then is the model's choice of timing (log entry 2). -/
def Obligations.IdleEngineHoldsAndBusyEngineCompletes : Prop :=
  ∀ s : State, s.inputs = [] →
    (s.inFlight = none → step s = .next s) ∧
    (Inv s → s.inFlight ≠ none → ∃ t, step s = .next t ∧ t.inFlight = none ∧ t.inputs = [])
end

