-- ==== Sys2Proof/Laws/State.lean ====
section
/-! SUPPORT. What each update of the state does to each field, one lemma per field per update, so that no
proof unfolds a record update. -/

namespace Sys2Proof.Machine

/-! ### `completeQuiet` -/

@[simp] theorem completeQuiet_config (s : State) : (completeQuiet s).config = s.config := rfl
@[simp] theorem completeQuiet_roundCount (s : State) : (completeQuiet s).roundCount = s.roundCount := rfl
@[simp] theorem completeQuiet_evalArg (s : State) : (completeQuiet s).evalArg = s.evalArg := rfl
@[simp] theorem completeQuiet_state (s : State) : (completeQuiet s).state = s.state := rfl
@[simp] theorem completeQuiet_cmdOvr (s : State) : (completeQuiet s).cmdOvr = s.cmdOvr := rfl
@[simp] theorem completeQuiet_wlock (s : State) : (completeQuiet s).wlock = s.wlock := rfl
@[simp] theorem completeQuiet_cmdIgn (s : State) : (completeQuiet s).cmdIgn = s.cmdIgn := rfl
@[simp] theorem completeQuiet_errCode (s : State) : (completeQuiet s).errCode = s.errCode := rfl
@[simp] theorem completeQuiet_errDetail (s : State) : (completeQuiet s).errDetail = s.errDetail := rfl
@[simp] theorem completeQuiet_errOpc (s : State) : (completeQuiet s).errOpc = s.errOpc := rfl
@[simp] theorem completeQuiet_errIdx (s : State) : (completeQuiet s).errIdx = s.errIdx := rfl
@[simp] theorem completeQuiet_roundsDone (s : State) : (completeQuiet s).roundsDone = s.roundsDone := rfl
@[simp] theorem completeQuiet_nextIdx (s : State) : (completeQuiet s).nextIdx = s.nextIdx := rfl
@[simp] theorem completeQuiet_bs (s : State) : (completeQuiet s).bs = s.bs := rfl
@[simp] theorem completeQuiet_hx (s : State) : (completeQuiet s).hx = s.hx := rfl
@[simp] theorem completeQuiet_lastIdx (s : State) : (completeQuiet s).lastIdx = s.lastIdx := rfl
@[simp] theorem completeQuiet_lastLen (s : State) : (completeQuiet s).lastLen = s.lastLen := rfl
@[simp] theorem completeQuiet_scaled (s : State) : (completeQuiet s).scaled = s.scaled := rfl
@[simp] theorem completeQuiet_irqEn (s : State) : (completeQuiet s).irqEn = s.irqEn := rfl
@[simp] theorem completeQuiet_irqStat (s : State) : (completeQuiet s).irqStat = s.irqStat := rfl
@[simp] theorem completeQuiet_mixres (s : State) : (completeQuiet s).mixres = s.mixres := rfl
@[simp] theorem completeQuiet_intpart (s : State) : (completeQuiet s).intpart = s.intpart := rfl
@[simp] theorem completeQuiet_fracp (s : State) : (completeQuiet s).fracp = s.fracp := rfl
@[simp] theorem completeQuiet_cval (s : State) : (completeQuiet s).cval = s.cval := rfl
@[simp] theorem completeQuiet_bank (s : State) : (completeQuiet s).bank = s.bank := rfl
@[simp] theorem completeQuiet_act (s : State) : (completeQuiet s).act = s.act := rfl
@[simp] theorem completeQuiet_inFlight (s : State) : (completeQuiet s).inFlight = none := rfl
@[simp] theorem completeQuiet_inputs (s : State) : (completeQuiet s).inputs = s.inputs := rfl
@[simp] theorem completeQuiet_response (s : State) : (completeQuiet s).response = s.response := rfl
@[simp] theorem completeQuiet_busyReads (s : State) : (completeQuiet s).busyReads = s.busyReads := rfl

/-! ### `completeDone` -/

@[simp] theorem completeDone_config (s : State) : (completeDone s).config = s.config := rfl
@[simp] theorem completeDone_roundCount (s : State) : (completeDone s).roundCount = s.roundCount := rfl
@[simp] theorem completeDone_evalArg (s : State) : (completeDone s).evalArg = s.evalArg := rfl
@[simp] theorem completeDone_state (s : State) : (completeDone s).state = s.state := rfl
@[simp] theorem completeDone_cmdOvr (s : State) : (completeDone s).cmdOvr = s.cmdOvr := rfl
@[simp] theorem completeDone_wlock (s : State) : (completeDone s).wlock = s.wlock := rfl
@[simp] theorem completeDone_cmdIgn (s : State) : (completeDone s).cmdIgn = s.cmdIgn := rfl
@[simp] theorem completeDone_errCode (s : State) : (completeDone s).errCode = s.errCode := rfl
@[simp] theorem completeDone_errDetail (s : State) : (completeDone s).errDetail = s.errDetail := rfl
@[simp] theorem completeDone_errOpc (s : State) : (completeDone s).errOpc = s.errOpc := rfl
@[simp] theorem completeDone_errIdx (s : State) : (completeDone s).errIdx = s.errIdx := rfl
@[simp] theorem completeDone_roundsDone (s : State) : (completeDone s).roundsDone = s.roundsDone := rfl
@[simp] theorem completeDone_nextIdx (s : State) : (completeDone s).nextIdx = s.nextIdx := rfl
@[simp] theorem completeDone_bs (s : State) : (completeDone s).bs = s.bs := rfl
@[simp] theorem completeDone_hx (s : State) : (completeDone s).hx = s.hx := rfl
@[simp] theorem completeDone_lastIdx (s : State) : (completeDone s).lastIdx = s.lastIdx := rfl
@[simp] theorem completeDone_lastLen (s : State) : (completeDone s).lastLen = s.lastLen := rfl
@[simp] theorem completeDone_scaled (s : State) : (completeDone s).scaled = s.scaled := rfl
@[simp] theorem completeDone_irqEn (s : State) : (completeDone s).irqEn = s.irqEn := rfl
@[simp] theorem completeDone_irqStat (s : State) : (completeDone s).irqStat = setDone s.irqStat := rfl
@[simp] theorem completeDone_mixres (s : State) : (completeDone s).mixres = s.mixres := rfl
@[simp] theorem completeDone_intpart (s : State) : (completeDone s).intpart = s.intpart := rfl
@[simp] theorem completeDone_fracp (s : State) : (completeDone s).fracp = s.fracp := rfl
@[simp] theorem completeDone_cval (s : State) : (completeDone s).cval = s.cval := rfl
@[simp] theorem completeDone_bank (s : State) : (completeDone s).bank = s.bank := rfl
@[simp] theorem completeDone_act (s : State) : (completeDone s).act = s.act := rfl
@[simp] theorem completeDone_inFlight (s : State) : (completeDone s).inFlight = none := rfl
@[simp] theorem completeDone_inputs (s : State) : (completeDone s).inputs = s.inputs := rfl
@[simp] theorem completeDone_response (s : State) : (completeDone s).response = s.response := rfl
@[simp] theorem completeDone_busyReads (s : State) : (completeDone s).busyReads = s.busyReads := rfl

/-! ### `enterError` -/

@[simp] theorem enterError_config (r : Raise) (opc : BitVec 8) (s : State) : (enterError r opc s).config = s.config := rfl
@[simp] theorem enterError_roundCount (r : Raise) (opc : BitVec 8) (s : State) : (enterError r opc s).roundCount = s.roundCount := rfl
@[simp] theorem enterError_evalArg (r : Raise) (opc : BitVec 8) (s : State) : (enterError r opc s).evalArg = s.evalArg := rfl
@[simp] theorem enterError_state (r : Raise) (opc : BitVec 8) (s : State) : (enterError r opc s).state = .error := rfl
@[simp] theorem enterError_cmdOvr (r : Raise) (opc : BitVec 8) (s : State) : (enterError r opc s).cmdOvr = s.cmdOvr := rfl
@[simp] theorem enterError_wlock (r : Raise) (opc : BitVec 8) (s : State) : (enterError r opc s).wlock = s.wlock := rfl
@[simp] theorem enterError_cmdIgn (r : Raise) (opc : BitVec 8) (s : State) : (enterError r opc s).cmdIgn = s.cmdIgn := rfl
@[simp] theorem enterError_errCode (r : Raise) (opc : BitVec 8) (s : State) : (enterError r opc s).errCode = r.code.code := rfl
@[simp] theorem enterError_errDetail (r : Raise) (opc : BitVec 8) (s : State) : (enterError r opc s).errDetail = r.detail := rfl
@[simp] theorem enterError_errOpc (r : Raise) (opc : BitVec 8) (s : State) : (enterError r opc s).errOpc = opc := rfl
@[simp] theorem enterError_errIdx (r : Raise) (opc : BitVec 8) (s : State) : (enterError r opc s).errIdx = r.idx := rfl
@[simp] theorem enterError_roundsDone (r : Raise) (opc : BitVec 8) (s : State) : (enterError r opc s).roundsDone = s.roundsDone := rfl
@[simp] theorem enterError_nextIdx (r : Raise) (opc : BitVec 8) (s : State) : (enterError r opc s).nextIdx = s.nextIdx := rfl
@[simp] theorem enterError_bs (r : Raise) (opc : BitVec 8) (s : State) : (enterError r opc s).bs = [] := rfl
@[simp] theorem enterError_hx (r : Raise) (opc : BitVec 8) (s : State) : (enterError r opc s).hx = [] := rfl
@[simp] theorem enterError_lastIdx (r : Raise) (opc : BitVec 8) (s : State) : (enterError r opc s).lastIdx = s.lastIdx := rfl
@[simp] theorem enterError_lastLen (r : Raise) (opc : BitVec 8) (s : State) : (enterError r opc s).lastLen = s.lastLen := rfl
@[simp] theorem enterError_scaled (r : Raise) (opc : BitVec 8) (s : State) : (enterError r opc s).scaled = s.scaled := rfl
@[simp] theorem enterError_irqEn (r : Raise) (opc : BitVec 8) (s : State) : (enterError r opc s).irqEn = s.irqEn := rfl
@[simp] theorem enterError_irqStat (r : Raise) (opc : BitVec 8) (s : State) : (enterError r opc s).irqStat = setErr s.irqStat := rfl
@[simp] theorem enterError_mixres (r : Raise) (opc : BitVec 8) (s : State) : (enterError r opc s).mixres = s.mixres := rfl
@[simp] theorem enterError_intpart (r : Raise) (opc : BitVec 8) (s : State) : (enterError r opc s).intpart = s.intpart := rfl
@[simp] theorem enterError_fracp (r : Raise) (opc : BitVec 8) (s : State) : (enterError r opc s).fracp = s.fracp := rfl
@[simp] theorem enterError_cval (r : Raise) (opc : BitVec 8) (s : State) : (enterError r opc s).cval = s.cval := rfl
@[simp] theorem enterError_bank (r : Raise) (opc : BitVec 8) (s : State) : (enterError r opc s).bank = s.bank := rfl
@[simp] theorem enterError_act (r : Raise) (opc : BitVec 8) (s : State) : (enterError r opc s).act = s.act := rfl
@[simp] theorem enterError_inFlight (r : Raise) (opc : BitVec 8) (s : State) : (enterError r opc s).inFlight = none := rfl
@[simp] theorem enterError_inputs (r : Raise) (opc : BitVec 8) (s : State) : (enterError r opc s).inputs = s.inputs := rfl
@[simp] theorem enterError_response (r : Raise) (opc : BitVec 8) (s : State) : (enterError r opc s).response = s.response := rfl
@[simp] theorem enterError_busyReads (r : Raise) (opc : BitVec 8) (s : State) : (enterError r opc s).busyReads = s.busyReads := rfl

/-! ### `ignoreCommand` -/

@[simp] theorem ignoreCommand_config (s : State) : (ignoreCommand s).config = s.config := rfl
@[simp] theorem ignoreCommand_roundCount (s : State) : (ignoreCommand s).roundCount = s.roundCount := rfl
@[simp] theorem ignoreCommand_evalArg (s : State) : (ignoreCommand s).evalArg = s.evalArg := rfl
@[simp] theorem ignoreCommand_state (s : State) : (ignoreCommand s).state = s.state := rfl
@[simp] theorem ignoreCommand_cmdOvr (s : State) : (ignoreCommand s).cmdOvr = s.cmdOvr := rfl
@[simp] theorem ignoreCommand_wlock (s : State) : (ignoreCommand s).wlock = s.wlock := rfl
@[simp] theorem ignoreCommand_cmdIgn (s : State) : (ignoreCommand s).cmdIgn = true := rfl
@[simp] theorem ignoreCommand_errCode (s : State) : (ignoreCommand s).errCode = s.errCode := rfl
@[simp] theorem ignoreCommand_errDetail (s : State) : (ignoreCommand s).errDetail = s.errDetail := rfl
@[simp] theorem ignoreCommand_errOpc (s : State) : (ignoreCommand s).errOpc = s.errOpc := rfl
@[simp] theorem ignoreCommand_errIdx (s : State) : (ignoreCommand s).errIdx = s.errIdx := rfl
@[simp] theorem ignoreCommand_roundsDone (s : State) : (ignoreCommand s).roundsDone = s.roundsDone := rfl
@[simp] theorem ignoreCommand_nextIdx (s : State) : (ignoreCommand s).nextIdx = s.nextIdx := rfl
@[simp] theorem ignoreCommand_bs (s : State) : (ignoreCommand s).bs = s.bs := rfl
@[simp] theorem ignoreCommand_hx (s : State) : (ignoreCommand s).hx = s.hx := rfl
@[simp] theorem ignoreCommand_lastIdx (s : State) : (ignoreCommand s).lastIdx = s.lastIdx := rfl
@[simp] theorem ignoreCommand_lastLen (s : State) : (ignoreCommand s).lastLen = s.lastLen := rfl
@[simp] theorem ignoreCommand_scaled (s : State) : (ignoreCommand s).scaled = s.scaled := rfl
@[simp] theorem ignoreCommand_irqEn (s : State) : (ignoreCommand s).irqEn = s.irqEn := rfl
@[simp] theorem ignoreCommand_irqStat (s : State) : (ignoreCommand s).irqStat = s.irqStat := rfl
@[simp] theorem ignoreCommand_mixres (s : State) : (ignoreCommand s).mixres = s.mixres := rfl
@[simp] theorem ignoreCommand_intpart (s : State) : (ignoreCommand s).intpart = s.intpart := rfl
@[simp] theorem ignoreCommand_fracp (s : State) : (ignoreCommand s).fracp = s.fracp := rfl
@[simp] theorem ignoreCommand_cval (s : State) : (ignoreCommand s).cval = s.cval := rfl
@[simp] theorem ignoreCommand_bank (s : State) : (ignoreCommand s).bank = s.bank := rfl
@[simp] theorem ignoreCommand_act (s : State) : (ignoreCommand s).act = s.act := rfl
@[simp] theorem ignoreCommand_inFlight (s : State) : (ignoreCommand s).inFlight = none := rfl
@[simp] theorem ignoreCommand_inputs (s : State) : (ignoreCommand s).inputs = s.inputs := rfl
@[simp] theorem ignoreCommand_response (s : State) : (ignoreCommand s).response = s.response := rfl
@[simp] theorem ignoreCommand_busyReads (s : State) : (ignoreCommand s).busyReads = s.busyReads := rfl

/-! ### `startRun` -/

@[simp] theorem startRun_config (s : State) : (startRun s).config = s.config := rfl
@[simp] theorem startRun_roundCount (s : State) : (startRun s).roundCount = s.roundCount := rfl
@[simp] theorem startRun_evalArg (s : State) : (startRun s).evalArg = s.evalArg := rfl
@[simp] theorem startRun_state (s : State) : (startRun s).state = .ready := rfl
@[simp] theorem startRun_cmdOvr (s : State) : (startRun s).cmdOvr = s.cmdOvr := rfl
@[simp] theorem startRun_wlock (s : State) : (startRun s).wlock = s.wlock := rfl
@[simp] theorem startRun_cmdIgn (s : State) : (startRun s).cmdIgn = s.cmdIgn := rfl
@[simp] theorem startRun_errCode (s : State) : (startRun s).errCode = s.errCode := rfl
@[simp] theorem startRun_errDetail (s : State) : (startRun s).errDetail = s.errDetail := rfl
@[simp] theorem startRun_errOpc (s : State) : (startRun s).errOpc = s.errOpc := rfl
@[simp] theorem startRun_errIdx (s : State) : (startRun s).errIdx = s.errIdx := rfl
@[simp] theorem startRun_roundsDone (s : State) : (startRun s).roundsDone = 0#32 := rfl
@[simp] theorem startRun_nextIdx (s : State) : (startRun s).nextIdx = 1#32 := rfl
@[simp] theorem startRun_bs (s : State) : (startRun s).bs = [] := rfl
@[simp] theorem startRun_hx (s : State) : (startRun s).hx = [] := rfl
@[simp] theorem startRun_lastIdx (s : State) : (startRun s).lastIdx = s.lastIdx := rfl
@[simp] theorem startRun_lastLen (s : State) : (startRun s).lastLen = s.lastLen := rfl
@[simp] theorem startRun_scaled (s : State) : (startRun s).scaled = s.scaled := rfl
@[simp] theorem startRun_irqEn (s : State) : (startRun s).irqEn = s.irqEn := rfl
@[simp] theorem startRun_irqStat (s : State) : (startRun s).irqStat = s.irqStat := rfl
@[simp] theorem startRun_mixres (s : State) : (startRun s).mixres = s.mixres := rfl
@[simp] theorem startRun_intpart (s : State) : (startRun s).intpart = s.intpart := rfl
@[simp] theorem startRun_fracp (s : State) : (startRun s).fracp = s.fracp := rfl
@[simp] theorem startRun_cval (s : State) : (startRun s).cval = s.cval := rfl
@[simp] theorem startRun_bank (s : State) : (startRun s).bank = some (rom s.config.cmode) := rfl
@[simp] theorem startRun_act (s : State) : (startRun s).act = some (latchConfig s) := rfl
@[simp] theorem startRun_inFlight (s : State) : (startRun s).inFlight = s.inFlight := rfl
@[simp] theorem startRun_inputs (s : State) : (startRun s).inputs = s.inputs := rfl
@[simp] theorem startRun_response (s : State) : (startRun s).response = s.response := rfl
@[simp] theorem startRun_busyReads (s : State) : (startRun s).busyReads = s.busyReads := rfl

/-! ### `clearSession` -/

@[simp] theorem clearSession_config (s : State) : (clearSession s).config = s.config := rfl
@[simp] theorem clearSession_roundCount (s : State) : (clearSession s).roundCount = s.roundCount := rfl
@[simp] theorem clearSession_evalArg (s : State) : (clearSession s).evalArg = s.evalArg := rfl
@[simp] theorem clearSession_state (s : State) : (clearSession s).state = .idle := rfl
@[simp] theorem clearSession_cmdOvr (s : State) : (clearSession s).cmdOvr = false := rfl
@[simp] theorem clearSession_wlock (s : State) : (clearSession s).wlock = false := rfl
@[simp] theorem clearSession_cmdIgn (s : State) : (clearSession s).cmdIgn = false := rfl
@[simp] theorem clearSession_errCode (s : State) : (clearSession s).errCode = 0#8 := rfl
@[simp] theorem clearSession_errDetail (s : State) : (clearSession s).errDetail = 0#8 := rfl
@[simp] theorem clearSession_errOpc (s : State) : (clearSession s).errOpc = 0#8 := rfl
@[simp] theorem clearSession_errIdx (s : State) : (clearSession s).errIdx = 0#32 := rfl
@[simp] theorem clearSession_roundsDone (s : State) : (clearSession s).roundsDone = 0#32 := rfl
@[simp] theorem clearSession_nextIdx (s : State) : (clearSession s).nextIdx = 0#32 := rfl
@[simp] theorem clearSession_bs (s : State) : (clearSession s).bs = [] := rfl
@[simp] theorem clearSession_hx (s : State) : (clearSession s).hx = [] := rfl
@[simp] theorem clearSession_lastIdx (s : State) : (clearSession s).lastIdx = 0#32 := rfl
@[simp] theorem clearSession_lastLen (s : State) : (clearSession s).lastLen = 0#32 := rfl
@[simp] theorem clearSession_scaled (s : State) : (clearSession s).scaled = 0#128 := rfl
@[simp] theorem clearSession_irqEn (s : State) : (clearSession s).irqEn = s.irqEn := rfl
@[simp] theorem clearSession_irqStat (s : State) : (clearSession s).irqStat = s.irqStat := rfl
@[simp] theorem clearSession_mixres (s : State) : (clearSession s).mixres = none := rfl
@[simp] theorem clearSession_intpart (s : State) : (clearSession s).intpart = none := rfl
@[simp] theorem clearSession_fracp (s : State) : (clearSession s).fracp = none := rfl
@[simp] theorem clearSession_cval (s : State) : (clearSession s).cval = none := rfl
@[simp] theorem clearSession_bank (s : State) : (clearSession s).bank = none := rfl
@[simp] theorem clearSession_act (s : State) : (clearSession s).act = none := rfl
@[simp] theorem clearSession_inFlight (s : State) : (clearSession s).inFlight = s.inFlight := rfl
@[simp] theorem clearSession_inputs (s : State) : (clearSession s).inputs = s.inputs := rfl
@[simp] theorem clearSession_response (s : State) : (clearSession s).response = s.response := rfl
@[simp] theorem clearSession_busyReads (s : State) : (clearSession s).busyReads = s.busyReads := rfl

/-! ### `setCval` -/

@[simp] theorem setCval_config (v : HPV) (s : State) : (setCval v s).config = s.config := rfl
@[simp] theorem setCval_roundCount (v : HPV) (s : State) : (setCval v s).roundCount = s.roundCount := rfl
@[simp] theorem setCval_evalArg (v : HPV) (s : State) : (setCval v s).evalArg = s.evalArg := rfl
@[simp] theorem setCval_state (v : HPV) (s : State) : (setCval v s).state = s.state := rfl
@[simp] theorem setCval_cmdOvr (v : HPV) (s : State) : (setCval v s).cmdOvr = s.cmdOvr := rfl
@[simp] theorem setCval_wlock (v : HPV) (s : State) : (setCval v s).wlock = s.wlock := rfl
@[simp] theorem setCval_cmdIgn (v : HPV) (s : State) : (setCval v s).cmdIgn = s.cmdIgn := rfl
@[simp] theorem setCval_errCode (v : HPV) (s : State) : (setCval v s).errCode = s.errCode := rfl
@[simp] theorem setCval_errDetail (v : HPV) (s : State) : (setCval v s).errDetail = s.errDetail := rfl
@[simp] theorem setCval_errOpc (v : HPV) (s : State) : (setCval v s).errOpc = s.errOpc := rfl
@[simp] theorem setCval_errIdx (v : HPV) (s : State) : (setCval v s).errIdx = s.errIdx := rfl
@[simp] theorem setCval_roundsDone (v : HPV) (s : State) : (setCval v s).roundsDone = s.roundsDone := rfl
@[simp] theorem setCval_nextIdx (v : HPV) (s : State) : (setCval v s).nextIdx = s.nextIdx := rfl
@[simp] theorem setCval_bs (v : HPV) (s : State) : (setCval v s).bs = s.bs := rfl
@[simp] theorem setCval_hx (v : HPV) (s : State) : (setCval v s).hx = s.hx := rfl
@[simp] theorem setCval_lastIdx (v : HPV) (s : State) : (setCval v s).lastIdx = s.lastIdx := rfl
@[simp] theorem setCval_lastLen (v : HPV) (s : State) : (setCval v s).lastLen = s.lastLen := rfl
@[simp] theorem setCval_scaled (v : HPV) (s : State) : (setCval v s).scaled = s.scaled := rfl
@[simp] theorem setCval_irqEn (v : HPV) (s : State) : (setCval v s).irqEn = s.irqEn := rfl
@[simp] theorem setCval_irqStat (v : HPV) (s : State) : (setCval v s).irqStat = s.irqStat := rfl
@[simp] theorem setCval_mixres (v : HPV) (s : State) : (setCval v s).mixres = s.mixres := rfl
@[simp] theorem setCval_intpart (v : HPV) (s : State) : (setCval v s).intpart = s.intpart := rfl
@[simp] theorem setCval_fracp (v : HPV) (s : State) : (setCval v s).fracp = s.fracp := rfl
@[simp] theorem setCval_cval (v : HPV) (s : State) : (setCval v s).cval = some v := rfl
@[simp] theorem setCval_bank (v : HPV) (s : State) : (setCval v s).bank = s.bank := rfl
@[simp] theorem setCval_act (v : HPV) (s : State) : (setCval v s).act = s.act := rfl
@[simp] theorem setCval_inFlight (v : HPV) (s : State) : (setCval v s).inFlight = s.inFlight := rfl
@[simp] theorem setCval_inputs (v : HPV) (s : State) : (setCval v s).inputs = s.inputs := rfl
@[simp] theorem setCval_response (v : HPV) (s : State) : (setCval v s).response = s.response := rfl
@[simp] theorem setCval_busyReads (v : HPV) (s : State) : (setCval v s).busyReads = s.busyReads := rfl

/-! ### `publish` -/

@[simp] theorem publish_config (n : Int) (r : EvalResult) (s : State) : (publish n r s).config = s.config := rfl
@[simp] theorem publish_roundCount (n : Int) (r : EvalResult) (s : State) : (publish n r s).roundCount = s.roundCount := rfl
@[simp] theorem publish_evalArg (n : Int) (r : EvalResult) (s : State) : (publish n r s).evalArg = s.evalArg := rfl
@[simp] theorem publish_state (n : Int) (r : EvalResult) (s : State) : (publish n r s).state = s.state := rfl
@[simp] theorem publish_cmdOvr (n : Int) (r : EvalResult) (s : State) : (publish n r s).cmdOvr = s.cmdOvr := rfl
@[simp] theorem publish_wlock (n : Int) (r : EvalResult) (s : State) : (publish n r s).wlock = s.wlock := rfl
@[simp] theorem publish_cmdIgn (n : Int) (r : EvalResult) (s : State) : (publish n r s).cmdIgn = s.cmdIgn := rfl
@[simp] theorem publish_errCode (n : Int) (r : EvalResult) (s : State) : (publish n r s).errCode = s.errCode := rfl
@[simp] theorem publish_errDetail (n : Int) (r : EvalResult) (s : State) : (publish n r s).errDetail = s.errDetail := rfl
@[simp] theorem publish_errOpc (n : Int) (r : EvalResult) (s : State) : (publish n r s).errOpc = s.errOpc := rfl
@[simp] theorem publish_errIdx (n : Int) (r : EvalResult) (s : State) : (publish n r s).errIdx = s.errIdx := rfl
@[simp] theorem publish_roundsDone (n : Int) (r : EvalResult) (s : State) : (publish n r s).roundsDone = s.roundsDone := rfl
@[simp] theorem publish_nextIdx (n : Int) (r : EvalResult) (s : State) : (publish n r s).nextIdx = s.nextIdx := rfl
@[simp] theorem publish_bs (n : Int) (r : EvalResult) (s : State) : (publish n r s).bs = s.bs := rfl
@[simp] theorem publish_hx (n : Int) (r : EvalResult) (s : State) : (publish n r s).hx = s.hx := rfl
@[simp] theorem publish_lastIdx (n : Int) (r : EvalResult) (s : State) : (publish n r s).lastIdx = BitVec.ofInt 32 n := rfl
@[simp] theorem publish_lastLen (n : Int) (r : EvalResult) (s : State) : (publish n r s).lastLen = BitVec.ofNat 32 r.len := rfl
@[simp] theorem publish_scaled (n : Int) (r : EvalResult) (s : State) : (publish n r s).scaled = r.scaled := rfl
@[simp] theorem publish_irqEn (n : Int) (r : EvalResult) (s : State) : (publish n r s).irqEn = s.irqEn := rfl
@[simp] theorem publish_irqStat (n : Int) (r : EvalResult) (s : State) : (publish n r s).irqStat = s.irqStat := rfl
@[simp] theorem publish_mixres (n : Int) (r : EvalResult) (s : State) : (publish n r s).mixres = some r.mixres := rfl
@[simp] theorem publish_intpart (n : Int) (r : EvalResult) (s : State) : (publish n r s).intpart = some r.intpart := rfl
@[simp] theorem publish_fracp (n : Int) (r : EvalResult) (s : State) : (publish n r s).fracp = some r.fracp := rfl
@[simp] theorem publish_cval (n : Int) (r : EvalResult) (s : State) : (publish n r s).cval = s.cval := rfl
@[simp] theorem publish_bank (n : Int) (r : EvalResult) (s : State) : (publish n r s).bank = s.bank := rfl
@[simp] theorem publish_act (n : Int) (r : EvalResult) (s : State) : (publish n r s).act = s.act := rfl
@[simp] theorem publish_inFlight (n : Int) (r : EvalResult) (s : State) : (publish n r s).inFlight = s.inFlight := rfl
@[simp] theorem publish_inputs (n : Int) (r : EvalResult) (s : State) : (publish n r s).inputs = s.inputs := rfl
@[simp] theorem publish_response (n : Int) (r : EvalResult) (s : State) : (publish n r s).response = s.response := rfl
@[simp] theorem publish_busyReads (n : Int) (r : EvalResult) (s : State) : (publish n r s).busyReads = s.busyReads := rfl

/-! ### `appendRound` -/

@[simp] theorem appendRound_config (r : EvalResult) (s : State) : (appendRound r s).config = s.config := rfl
@[simp] theorem appendRound_roundCount (r : EvalResult) (s : State) : (appendRound r s).roundCount = s.roundCount := rfl
@[simp] theorem appendRound_evalArg (r : EvalResult) (s : State) : (appendRound r s).evalArg = s.evalArg := rfl
@[simp] theorem appendRound_state (r : EvalResult) (s : State) : (appendRound r s).state = s.state := rfl
@[simp] theorem appendRound_cmdOvr (r : EvalResult) (s : State) : (appendRound r s).cmdOvr = s.cmdOvr := rfl
@[simp] theorem appendRound_wlock (r : EvalResult) (s : State) : (appendRound r s).wlock = s.wlock := rfl
@[simp] theorem appendRound_cmdIgn (r : EvalResult) (s : State) : (appendRound r s).cmdIgn = s.cmdIgn := rfl
@[simp] theorem appendRound_errCode (r : EvalResult) (s : State) : (appendRound r s).errCode = s.errCode := rfl
@[simp] theorem appendRound_errDetail (r : EvalResult) (s : State) : (appendRound r s).errDetail = s.errDetail := rfl
@[simp] theorem appendRound_errOpc (r : EvalResult) (s : State) : (appendRound r s).errOpc = s.errOpc := rfl
@[simp] theorem appendRound_errIdx (r : EvalResult) (s : State) : (appendRound r s).errIdx = s.errIdx := rfl
@[simp] theorem appendRound_roundsDone (r : EvalResult) (s : State) : (appendRound r s).roundsDone = s.roundsDone + 1#32 := rfl
@[simp] theorem appendRound_nextIdx (r : EvalResult) (s : State) : (appendRound r s).nextIdx = s.nextIdx + 1#32 := rfl
@[simp] theorem appendRound_bs (r : EvalResult) (s : State) : (appendRound r s).bs = s.bs ++ digitString r.len r.scaled := rfl
@[simp] theorem appendRound_hx (r : EvalResult) (s : State) : (appendRound r s).hx = s.hx := rfl
@[simp] theorem appendRound_lastIdx (r : EvalResult) (s : State) : (appendRound r s).lastIdx = s.lastIdx := rfl
@[simp] theorem appendRound_lastLen (r : EvalResult) (s : State) : (appendRound r s).lastLen = s.lastLen := rfl
@[simp] theorem appendRound_scaled (r : EvalResult) (s : State) : (appendRound r s).scaled = s.scaled := rfl
@[simp] theorem appendRound_irqEn (r : EvalResult) (s : State) : (appendRound r s).irqEn = s.irqEn := rfl
@[simp] theorem appendRound_irqStat (r : EvalResult) (s : State) : (appendRound r s).irqStat = s.irqStat := rfl
@[simp] theorem appendRound_mixres (r : EvalResult) (s : State) : (appendRound r s).mixres = s.mixres := rfl
@[simp] theorem appendRound_intpart (r : EvalResult) (s : State) : (appendRound r s).intpart = s.intpart := rfl
@[simp] theorem appendRound_fracp (r : EvalResult) (s : State) : (appendRound r s).fracp = s.fracp := rfl
@[simp] theorem appendRound_cval (r : EvalResult) (s : State) : (appendRound r s).cval = s.cval := rfl
@[simp] theorem appendRound_bank (r : EvalResult) (s : State) : (appendRound r s).bank = s.bank := rfl
@[simp] theorem appendRound_act (r : EvalResult) (s : State) : (appendRound r s).act = s.act := rfl
@[simp] theorem appendRound_inFlight (r : EvalResult) (s : State) : (appendRound r s).inFlight = s.inFlight := rfl
@[simp] theorem appendRound_inputs (r : EvalResult) (s : State) : (appendRound r s).inputs = s.inputs := rfl
@[simp] theorem appendRound_response (r : EvalResult) (s : State) : (appendRound r s).response = s.response := rfl
@[simp] theorem appendRound_busyReads (r : EvalResult) (s : State) : (appendRound r s).busyReads = s.busyReads := rfl

/-! ### `aggregate` -/

@[simp] theorem aggregate_config (s : State) : (aggregate s).config = s.config := rfl
@[simp] theorem aggregate_roundCount (s : State) : (aggregate s).roundCount = s.roundCount := rfl
@[simp] theorem aggregate_evalArg (s : State) : (aggregate s).evalArg = s.evalArg := rfl
@[simp] theorem aggregate_state (s : State) : (aggregate s).state = .done := rfl
@[simp] theorem aggregate_cmdOvr (s : State) : (aggregate s).cmdOvr = s.cmdOvr := rfl
@[simp] theorem aggregate_wlock (s : State) : (aggregate s).wlock = s.wlock := rfl
@[simp] theorem aggregate_cmdIgn (s : State) : (aggregate s).cmdIgn = s.cmdIgn := rfl
@[simp] theorem aggregate_errCode (s : State) : (aggregate s).errCode = s.errCode := rfl
@[simp] theorem aggregate_errDetail (s : State) : (aggregate s).errDetail = s.errDetail := rfl
@[simp] theorem aggregate_errOpc (s : State) : (aggregate s).errOpc = s.errOpc := rfl
@[simp] theorem aggregate_errIdx (s : State) : (aggregate s).errIdx = s.errIdx := rfl
@[simp] theorem aggregate_roundsDone (s : State) : (aggregate s).roundsDone = s.roundsDone := rfl
@[simp] theorem aggregate_nextIdx (s : State) : (aggregate s).nextIdx = s.nextIdx := rfl
@[simp] theorem aggregate_bs (s : State) : (aggregate s).bs = s.bs := rfl
@[simp] theorem aggregate_hx (s : State) : (aggregate s).hx = aggregateDigits s.bs := rfl
@[simp] theorem aggregate_lastIdx (s : State) : (aggregate s).lastIdx = s.lastIdx := rfl
@[simp] theorem aggregate_lastLen (s : State) : (aggregate s).lastLen = s.lastLen := rfl
@[simp] theorem aggregate_scaled (s : State) : (aggregate s).scaled = s.scaled := rfl
@[simp] theorem aggregate_irqEn (s : State) : (aggregate s).irqEn = s.irqEn := rfl
@[simp] theorem aggregate_irqStat (s : State) : (aggregate s).irqStat = s.irqStat := rfl
@[simp] theorem aggregate_mixres (s : State) : (aggregate s).mixres = s.mixres := rfl
@[simp] theorem aggregate_intpart (s : State) : (aggregate s).intpart = s.intpart := rfl
@[simp] theorem aggregate_fracp (s : State) : (aggregate s).fracp = s.fracp := rfl
@[simp] theorem aggregate_cval (s : State) : (aggregate s).cval = s.cval := rfl
@[simp] theorem aggregate_bank (s : State) : (aggregate s).bank = s.bank := rfl
@[simp] theorem aggregate_act (s : State) : (aggregate s).act = s.act := rfl
@[simp] theorem aggregate_inFlight (s : State) : (aggregate s).inFlight = s.inFlight := rfl
@[simp] theorem aggregate_inputs (s : State) : (aggregate s).inputs = s.inputs := rfl
@[simp] theorem aggregate_response (s : State) : (aggregate s).response = s.response := rfl
@[simp] theorem aggregate_busyReads (s : State) : (aggregate s).busyReads = s.busyReads := rfl

end Sys2Proof.Machine
end

