-- ==== Sys2Proof/Laws/BusState.lean ====
section
/-! SUPPORT. As Laws/State.lean, for the updates of the bus, of reset and of the placing of a command. -/

namespace Sys2Proof.Machine

/-! ### `refuseAccess` -/

@[simp] theorem refuseAccess_config (s : State) : (refuseAccess s).config = s.config := rfl
@[simp] theorem refuseAccess_roundCount (s : State) : (refuseAccess s).roundCount = s.roundCount := rfl
@[simp] theorem refuseAccess_evalArg (s : State) : (refuseAccess s).evalArg = s.evalArg := rfl
@[simp] theorem refuseAccess_state (s : State) : (refuseAccess s).state = s.state := rfl
@[simp] theorem refuseAccess_cmdOvr (s : State) : (refuseAccess s).cmdOvr = s.cmdOvr := rfl
@[simp] theorem refuseAccess_wlock (s : State) : (refuseAccess s).wlock = s.wlock := rfl
@[simp] theorem refuseAccess_cmdIgn (s : State) : (refuseAccess s).cmdIgn = s.cmdIgn := rfl
@[simp] theorem refuseAccess_errCode (s : State) : (refuseAccess s).errCode = s.errCode := rfl
@[simp] theorem refuseAccess_errDetail (s : State) : (refuseAccess s).errDetail = s.errDetail := rfl
@[simp] theorem refuseAccess_errOpc (s : State) : (refuseAccess s).errOpc = s.errOpc := rfl
@[simp] theorem refuseAccess_errIdx (s : State) : (refuseAccess s).errIdx = s.errIdx := rfl
@[simp] theorem refuseAccess_roundsDone (s : State) : (refuseAccess s).roundsDone = s.roundsDone := rfl
@[simp] theorem refuseAccess_nextIdx (s : State) : (refuseAccess s).nextIdx = s.nextIdx := rfl
@[simp] theorem refuseAccess_bs (s : State) : (refuseAccess s).bs = s.bs := rfl
@[simp] theorem refuseAccess_hx (s : State) : (refuseAccess s).hx = s.hx := rfl
@[simp] theorem refuseAccess_lastIdx (s : State) : (refuseAccess s).lastIdx = s.lastIdx := rfl
@[simp] theorem refuseAccess_lastLen (s : State) : (refuseAccess s).lastLen = s.lastLen := rfl
@[simp] theorem refuseAccess_scaled (s : State) : (refuseAccess s).scaled = s.scaled := rfl
@[simp] theorem refuseAccess_irqEn (s : State) : (refuseAccess s).irqEn = s.irqEn := rfl
@[simp] theorem refuseAccess_irqStat (s : State) : (refuseAccess s).irqStat = s.irqStat := rfl
@[simp] theorem refuseAccess_mixres (s : State) : (refuseAccess s).mixres = s.mixres := rfl
@[simp] theorem refuseAccess_intpart (s : State) : (refuseAccess s).intpart = s.intpart := rfl
@[simp] theorem refuseAccess_fracp (s : State) : (refuseAccess s).fracp = s.fracp := rfl
@[simp] theorem refuseAccess_cval (s : State) : (refuseAccess s).cval = s.cval := rfl
@[simp] theorem refuseAccess_bank (s : State) : (refuseAccess s).bank = s.bank := rfl
@[simp] theorem refuseAccess_act (s : State) : (refuseAccess s).act = s.act := rfl
@[simp] theorem refuseAccess_inFlight (s : State) : (refuseAccess s).inFlight = s.inFlight := rfl
@[simp] theorem refuseAccess_inputs (s : State) : (refuseAccess s).inputs = s.inputs := rfl
@[simp] theorem refuseAccess_response (s : State) : (refuseAccess s).response = some ⟨true, 0#32⟩ := rfl
@[simp] theorem refuseAccess_busyReads (s : State) : (refuseAccess s).busyReads = s.busyReads := rfl

/-! ### `hardReset` -/

@[simp] theorem hardReset_config (s : State) : (hardReset s).config = ConfigReg.reset := rfl
@[simp] theorem hardReset_roundCount (s : State) : (hardReset s).roundCount = 150#16 := rfl
@[simp] theorem hardReset_evalArg (s : State) : (hardReset s).evalArg = 0#32 := rfl
@[simp] theorem hardReset_state (s : State) : (hardReset s).state = .idle := rfl
@[simp] theorem hardReset_cmdOvr (s : State) : (hardReset s).cmdOvr = false := rfl
@[simp] theorem hardReset_wlock (s : State) : (hardReset s).wlock = false := rfl
@[simp] theorem hardReset_cmdIgn (s : State) : (hardReset s).cmdIgn = false := rfl
@[simp] theorem hardReset_errCode (s : State) : (hardReset s).errCode = 0#8 := rfl
@[simp] theorem hardReset_errDetail (s : State) : (hardReset s).errDetail = 0#8 := rfl
@[simp] theorem hardReset_errOpc (s : State) : (hardReset s).errOpc = 0#8 := rfl
@[simp] theorem hardReset_errIdx (s : State) : (hardReset s).errIdx = 0#32 := rfl
@[simp] theorem hardReset_roundsDone (s : State) : (hardReset s).roundsDone = 0#32 := rfl
@[simp] theorem hardReset_nextIdx (s : State) : (hardReset s).nextIdx = 0#32 := rfl
@[simp] theorem hardReset_bs (s : State) : (hardReset s).bs = [] := rfl
@[simp] theorem hardReset_hx (s : State) : (hardReset s).hx = [] := rfl
@[simp] theorem hardReset_lastIdx (s : State) : (hardReset s).lastIdx = 0#32 := rfl
@[simp] theorem hardReset_lastLen (s : State) : (hardReset s).lastLen = 0#32 := rfl
@[simp] theorem hardReset_scaled (s : State) : (hardReset s).scaled = 0#128 := rfl
@[simp] theorem hardReset_irqEn (s : State) : (hardReset s).irqEn = 0#2 := rfl
@[simp] theorem hardReset_irqStat (s : State) : (hardReset s).irqStat = 0#2 := rfl
@[simp] theorem hardReset_mixres (s : State) : (hardReset s).mixres = none := rfl
@[simp] theorem hardReset_intpart (s : State) : (hardReset s).intpart = none := rfl
@[simp] theorem hardReset_fracp (s : State) : (hardReset s).fracp = none := rfl
@[simp] theorem hardReset_cval (s : State) : (hardReset s).cval = none := rfl
@[simp] theorem hardReset_bank (s : State) : (hardReset s).bank = none := rfl
@[simp] theorem hardReset_act (s : State) : (hardReset s).act = none := rfl
@[simp] theorem hardReset_inFlight (s : State) : (hardReset s).inFlight = none := rfl
@[simp] theorem hardReset_inputs (s : State) : (hardReset s).inputs = s.inputs := rfl
@[simp] theorem hardReset_response (s : State) : (hardReset s).response = none := rfl
@[simp] theorem hardReset_busyReads (s : State) : (hardReset s).busyReads = s.busyReads := rfl

/-! ### `placeCommand` -/

@[simp] theorem placeCommand_config (s : State) (nbits w : Nat) : (placeCommand s nbits w).config = s.config := rfl
@[simp] theorem placeCommand_roundCount (s : State) (nbits w : Nat) : (placeCommand s nbits w).roundCount = s.roundCount := rfl
@[simp] theorem placeCommand_evalArg (s : State) (nbits w : Nat) : (placeCommand s nbits w).evalArg = s.evalArg := rfl
@[simp] theorem placeCommand_state (s : State) (nbits w : Nat) : (placeCommand s nbits w).state = s.state := rfl
@[simp] theorem placeCommand_cmdOvr (s : State) (nbits w : Nat) : (placeCommand s nbits w).cmdOvr = s.cmdOvr := rfl
@[simp] theorem placeCommand_wlock (s : State) (nbits w : Nat) : (placeCommand s nbits w).wlock = s.wlock := rfl
@[simp] theorem placeCommand_cmdIgn (s : State) (nbits w : Nat) : (placeCommand s nbits w).cmdIgn = s.cmdIgn := rfl
@[simp] theorem placeCommand_errCode (s : State) (nbits w : Nat) : (placeCommand s nbits w).errCode = s.errCode := rfl
@[simp] theorem placeCommand_errDetail (s : State) (nbits w : Nat) : (placeCommand s nbits w).errDetail = s.errDetail := rfl
@[simp] theorem placeCommand_errOpc (s : State) (nbits w : Nat) : (placeCommand s nbits w).errOpc = s.errOpc := rfl
@[simp] theorem placeCommand_errIdx (s : State) (nbits w : Nat) : (placeCommand s nbits w).errIdx = s.errIdx := rfl
@[simp] theorem placeCommand_roundsDone (s : State) (nbits w : Nat) : (placeCommand s nbits w).roundsDone = s.roundsDone := rfl
@[simp] theorem placeCommand_nextIdx (s : State) (nbits w : Nat) : (placeCommand s nbits w).nextIdx = s.nextIdx := rfl
@[simp] theorem placeCommand_bs (s : State) (nbits w : Nat) : (placeCommand s nbits w).bs = s.bs := rfl
@[simp] theorem placeCommand_hx (s : State) (nbits w : Nat) : (placeCommand s nbits w).hx = s.hx := rfl
@[simp] theorem placeCommand_lastIdx (s : State) (nbits w : Nat) : (placeCommand s nbits w).lastIdx = s.lastIdx := rfl
@[simp] theorem placeCommand_lastLen (s : State) (nbits w : Nat) : (placeCommand s nbits w).lastLen = s.lastLen := rfl
@[simp] theorem placeCommand_scaled (s : State) (nbits w : Nat) : (placeCommand s nbits w).scaled = s.scaled := rfl
@[simp] theorem placeCommand_irqEn (s : State) (nbits w : Nat) : (placeCommand s nbits w).irqEn = s.irqEn := rfl
@[simp] theorem placeCommand_irqStat (s : State) (nbits w : Nat) : (placeCommand s nbits w).irqStat = s.irqStat := rfl
@[simp] theorem placeCommand_mixres (s : State) (nbits w : Nat) : (placeCommand s nbits w).mixres = s.mixres := rfl
@[simp] theorem placeCommand_intpart (s : State) (nbits w : Nat) : (placeCommand s nbits w).intpart = s.intpart := rfl
@[simp] theorem placeCommand_fracp (s : State) (nbits w : Nat) : (placeCommand s nbits w).fracp = s.fracp := rfl
@[simp] theorem placeCommand_cval (s : State) (nbits w : Nat) : (placeCommand s nbits w).cval = s.cval := rfl
@[simp] theorem placeCommand_bank (s : State) (nbits w : Nat) : (placeCommand s nbits w).bank = s.bank := rfl
@[simp] theorem placeCommand_act (s : State) (nbits w : Nat) : (placeCommand s nbits w).act = s.act := rfl
@[simp] theorem placeCommand_inFlight (s : State) (nbits w : Nat) : (placeCommand s nbits w).inFlight = some (BitVec.ofNat 32 (w % 2 ^ nbits)) := rfl
@[simp] theorem placeCommand_inputs (s : State) (nbits w : Nat) : (placeCommand s nbits w).inputs = .complete :: s.inputs := rfl
@[simp] theorem placeCommand_response (s : State) (nbits w : Nat) : (placeCommand s nbits w).response = s.response := rfl
@[simp] theorem placeCommand_busyReads (s : State) (nbits w : Nat) : (placeCommand s nbits w).busyReads = s.busyReads := rfl

end Sys2Proof.Machine
end

