-- ==== Sys2Proof/Laws/Numerics.lean ====
section
/-! SUPPORT. What the exact decimal tools compute: the digit count, the decimal logarithm, the powers of
ten and half-even rounding. -/

namespace Sys2Proof.Machine

/-! ### Powers of ten -/

theorem pow10_eq_zpow (e : Int) : pow10 e = (10 : ℚ) ^ e := by
  cases e with
  | ofNat n => simp [pow10]
  | negSucc n => rw [pow10, Rat.mkRat_eq_div, zpow_negSucc]; push_cast; rw [one_div]

theorem pow10_pos (e : Int) : 0 < pow10 e := by
  rw [pow10_eq_zpow]; positivity

theorem pow10_add (a b : Int) : pow10 (a + b) = pow10 a * pow10 b := by
  simp only [pow10_eq_zpow]; exact zpow_add₀ (by norm_num) a b

/-! ### The number of decimal digits -/

theorem decSpan_spec (n : Nat) : ∀ fuel j : Nat, n < 10 ^ 2 ^ (j + fuel) → n < 10 ^ 2 ^ decSpan n fuel j
  | 0, _, h => h
  | fuel + 1, j, h => by
    unfold decSpan
    split
    · assumption
    · exact decSpan_spec n fuel (j + 1) (by rwa [Nat.add_right_comm, Nat.add_assoc])

theorem decBisect_spec (n : Nat) : ∀ j k : Nat, 10 ^ k ≤ n → n < 10 ^ (k + 2 ^ j) →
    10 ^ decBisect n j k ≤ n ∧ n < 10 ^ (decBisect n j k + 1)
  | 0, _, h1, h2 => ⟨h1, h2⟩
  | j + 1, k, h1, h2 => by
    unfold decBisect
    split
    · exact decBisect_spec n j _ ‹_› (by rwa [Nat.add_assoc, ← Nat.two_mul, ← Nat.pow_succ'])
    · exact decBisect_spec n j k h1 (Nat.lt_of_not_le ‹_›)

/-- `decLen n` is the least `k` with `n < 10^k`. -/
theorem decLen_spec (n : Nat) : n < 10 ^ decLen n ∧ (decLen n = 0 ∨ 10 ^ (decLen n - 1) ≤ n) := by
  unfold decLen
  split
  · subst n; decide
  · have hn : n < 10 ^ 2 ^ (0 + n) := by
      rw [Nat.zero_add]
      exact Nat.lt_two_pow_self.trans (Nat.lt_pow_self (by norm_num))
    have h := decBisect_spec n (decSpan n n 0) 0 (by simp; omega)
      (by simpa using decSpan_spec n n 0 hn)
    exact ⟨h.2, Or.inr h.1⟩

theorem decLen_pos {n : Nat} (h : 0 < n) : 0 < decLen n := by
  rcases Nat.eq_zero_or_pos (decLen n) with h0 | h0
  · have := (decLen_spec n).1; rw [h0] at this; omega
  · exact h0

/-- `decLen` is the only digit count: a `k` that brackets `n` is it. -/
theorem decLen_unique {n k : Nat} (h1 : n < 10 ^ k) (h2 : k = 0 ∨ 10 ^ (k - 1) ≤ n) : decLen n = k := by
  obtain ⟨g1, g2⟩ := decLen_spec n
  have up : ∀ {a b : Nat}, n < 10 ^ b → (a = 0 ∨ 10 ^ (a - 1) ≤ n) → a ≤ b := by
    intro a b hb ha
    rcases ha with ha | ha
    · omega
    · have := (Nat.pow_lt_pow_iff_right (a := 10) (by norm_num)).1 (lt_of_le_of_lt ha hb)
      omega
  exact le_antisymm (up h1 g2) (up g1 h2)

/-! ### The decimal logarithm -/

/-- `floorLog10 n d` is the exponent of the leading digit of `n / d`. -/
theorem floorLog10_spec {n d : Nat} (hn : 0 < n) (hd : 0 < d) :
    (10 : ℚ) ^ floorLog10 n d ≤ (n : ℚ) / d ∧ (n : ℚ) / d < (10 : ℚ) ^ (floorLog10 n d + 1) := by
  have hdq : (0 : ℚ) < d := by exact_mod_cast hd
  have hnq : (0 : ℚ) < n := by exact_mod_cast hn
  obtain ⟨n1, n2⟩ := decLen_spec n
  obtain ⟨d1, d2⟩ := decLen_spec d
  have np := decLen_pos hn
  have dp := decLen_pos hd
  replace n2 : 10 ^ (decLen n - 1) ≤ n := n2.resolve_left (by omega)
  replace d2 : 10 ^ (decLen d - 1) ≤ d := d2.resolve_left (by omega)
  have ten : (0 : ℚ) < 10 := by norm_num
  have cast1 : ∀ m : Nat, ((10 ^ m : Nat) : ℚ) = (10 : ℚ) ^ (m : Int) := by intro m; push_cast; simp
  have n1' : (n : ℚ) < (10 : ℚ) ^ (decLen n : Int) := by rw [← cast1]; exact_mod_cast n1
  have d1' : (d : ℚ) < (10 : ℚ) ^ (decLen d : Int) := by rw [← cast1]; exact_mod_cast d1
  have n2' : (10 : ℚ) ^ ((decLen n : Int) - 1) ≤ n := by
    have : ((decLen n : Int) - 1) = ((decLen n - 1 : Nat) : Int) := by omega
    rw [this, ← cast1]; exact_mod_cast n2
  have d2' : (10 : ℚ) ^ ((decLen d : Int) - 1) ≤ d := by
    have : ((decLen d : Int) - 1) = ((decLen d - 1 : Nat) : Int) := by omega
    rw [this, ← cast1]; exact_mod_cast d2
  have hi : (n : ℚ) / d < (10 : ℚ) ^ ((decLen n : Int) - decLen d + 1) := by
    rw [div_lt_iff₀ hdq]
    calc (n : ℚ) < (10 : ℚ) ^ (decLen n : Int) := n1'
      _ = (10 : ℚ) ^ ((decLen n : Int) - decLen d + 1) * (10 : ℚ) ^ ((decLen d : Int) - 1) := by
        rw [← zpow_add₀ ten.ne']; congr 1; ring
      _ ≤ _ := by gcongr
  have lo : (10 : ℚ) ^ ((decLen n : Int) - decLen d - 1) ≤ (n : ℚ) / d := by
    rw [le_div_iff₀ hdq]
    calc (10 : ℚ) ^ ((decLen n : Int) - decLen d - 1) * d
        ≤ (10 : ℚ) ^ ((decLen n : Int) - decLen d - 1) * (10 : ℚ) ^ (decLen d : Int) := by gcongr
      _ = (10 : ℚ) ^ ((decLen n : Int) - 1) := by rw [← zpow_add₀ ten.ne']; congr 1; ring
      _ ≤ n := n2'
  have split : (d * 10 ^ ((decLen n : Int) - decLen d).toNat ≤ n * 10 ^ (-((decLen n : Int) - decLen d)).toNat) ↔
      (10 : ℚ) ^ ((decLen n : Int) - decLen d) ≤ (n : ℚ) / d := by
    generalize (decLen n : Int) - decLen d = k
    rw [le_div_iff₀ hdq]
    rcases le_total 0 k with hk | hk
    · obtain ⟨m, rfl⟩ := Int.eq_ofNat_of_zero_le hk
      have : (-(m : Int)).toNat = 0 := by omega
      rw [this, Int.toNat_natCast, zpow_natCast, ← Nat.cast_le (α := ℚ)]
      push_cast
      rw [mul_comm (d : ℚ)]; simp
    · obtain ⟨m, hm⟩ := Int.eq_ofNat_of_zero_le (show 0 ≤ -k by omega)
      have hk' : k = -(m : Int) := by omega
      subst hk'
      have : (-(m : Int)).toNat = 0 := by omega
      rw [this, neg_neg, Int.toNat_natCast, zpow_neg, zpow_natCast, ← Nat.cast_le (α := ℚ),
        inv_mul_le_iff₀ (by positivity)]
      push_cast
      rw [mul_comm (10 ^ m : ℚ)]; simp
  unfold floorLog10
  simp only
  split_ifs with h
  · exact ⟨split.1 h, hi⟩
  · refine ⟨lo, ?_⟩
    rw [sub_add_cancel]
    exact lt_of_not_ge fun hge => h (split.2 hge)

/-! ### Half-even rounding -/

/-- `roundHalfEven n d` is within one half of `n / d`, and even when it is exactly one half away. -/
theorem roundHalfEven_spec {n d : Nat} (hd : 0 < d) :
    |((roundHalfEven n d : Nat) : ℚ) - (n : ℚ) / d| ≤ 1 / 2 ∧
      (|((roundHalfEven n d : Nat) : ℚ) - (n : ℚ) / d| = 1 / 2 → roundHalfEven n d % 2 = 0) := by
  have hdq : (0 : ℚ) < d := by exact_mod_cast hd
  have key : (n : ℚ) / d = ((n / d : Nat) : ℚ) + ((n % d : Nat) : ℚ) / d := by
    rw [div_eq_iff hdq.ne', add_mul, div_mul_cancel₀ _ hdq.ne']
    exact_mod_cast (Nat.div_add_mod' n d).symm
  have hlt : n % d < d := Nat.mod_lt _ hd
  have hltq : ((n % d : Nat) : ℚ) < d := by exact_mod_cast hlt
  have hr0 : (0 : ℚ) ≤ ((n % d : Nat) : ℚ) / d := by positivity
  have hr1 : ((n % d : Nat) : ℚ) / d < 1 := by rwa [div_lt_one hdq]
  generalize hq : n / d = q at key
  have hlow : ∀ (x : ℚ), |((q : Nat) : ℚ) - ((q : ℚ) + x)| = |x| := by intro x; rw [sub_add_cancel_left, abs_neg]
  have hup : ∀ (x : ℚ), |((q + 1 : Nat) : ℚ) - ((q : ℚ) + x)| = |1 - x| := by
    intro x; push_cast; congr 1; ring
  rw [key]
  unfold roundHalfEven
  rw [hq]
  split_ifs with h1 h2 h3
  · have : ((n % d : Nat) : ℚ) / d < 1 / 2 := by
      rw [div_lt_div_iff₀ hdq two_pos]; exact_mod_cast (by omega : n % d * 2 < 1 * d)
    rw [hlow, abs_of_nonneg hr0]
    exact ⟨this.le, fun h => absurd h this.ne⟩
  · have : 1 / 2 < ((n % d : Nat) : ℚ) / d := by
      rw [div_lt_div_iff₀ two_pos hdq]; exact_mod_cast (by omega : 1 * d < n % d * 2)
    rw [hup, abs_of_nonneg (by linarith)]
    exact ⟨by linarith, fun h => absurd h (by linarith)⟩
  · have : ((n % d : Nat) : ℚ) / d = 1 / 2 := by
      rw [div_eq_div_iff hdq.ne' two_ne_zero]; exact_mod_cast (by omega : n % d * 2 = 1 * d)
    rw [hlow, this]
    exact ⟨by norm_num, fun _ => h3⟩
  · have : ((n % d : Nat) : ℚ) / d = 1 / 2 := by
      rw [div_eq_div_iff hdq.ne' two_ne_zero]; exact_mod_cast (by omega : n % d * 2 = 1 * d)
    rw [hup, this]
    exact ⟨by norm_num, fun _ => by omega⟩

/-! ### The rounded operations, as exact rationals -/

@[simp] theorem HPV.zero_toRat : HPV.zero.toRat = 0 := by decide +kernel

/-- A rounded operation either gives its raw rounding, with the exponent in range, or raises DETAIL 1. -/
theorem roundP_cases (q : ℚ) :
    (roundP q = .ok (roundRaw q) ∧ expInRange (roundRaw q).e = true) ∨
      (roundP q = .error .expRange ∧ expInRange (roundRaw q).e = false) := by
  unfold roundP checkExp
  cases h : expInRange (roundRaw q).e <;> simp

theorem roundP_ok {q : ℚ} {v : HPV} (h : roundP q = .ok v) :
    v = roundRaw q ∧ expInRange v.e = true := by
  rcases roundP_cases q with ⟨h1, h2⟩ | ⟨h1, _⟩
  · rw [h1] at h; cases h; exact ⟨rfl, h2⟩
  · rw [h1] at h; cases h

/-- `FRAC` gives the exact fractional part, as a raw rounding of it. -/
theorem hpFrac_ok {B : Nat} {v f : HPV} (h : hpFrac B v = .ok f) :
    f.toRat = v.toRat - (v.toRat.floor : ℚ) ∧ f = roundRaw (v.toRat - (v.toRat.floor : ℚ)) ∧
      expInRange f.e = true := by
  unfold hpFrac ofExact at h
  simp only at h
  split at h
  · cases h
  · split at h
    · rename_i f' hf
      cases h
      split at hf
      · rename_i hc
        cases hf
        exact ⟨hc.1, rfl, hc.2⟩
      · cases hf
    · cases h

/-- The fractional part of `FRAC` lies in `[0, 1)` (40_numerics.md R58). -/
theorem hpFrac_bounds {B : Nat} {v f : HPV} (h : hpFrac B v = .ok f) : 0 ≤ f.toRat ∧ f.toRat < 1 := by
  rw [(hpFrac_ok h).1]
  have h1 : (v.toRat.floor : ℚ) ≤ v.toRat := Rat.floor_le _
  have h2 : v.toRat < (v.toRat.floor : ℚ) + 1 := by exact_mod_cast Rat.lt_floor_add_one _
  constructor <;> linarith

/-- `SCALE_B` of a value of `[0, 1)` is below `2^B` (40_numerics.md R60). -/
theorem scaleB_lt {B : Nat} {f : HPV} (h1 : f.toRat < 1) : scaleB B f < 2 ^ B := by
  unfold scaleB
  have hp : (0 : ℚ) < ((2 ^ B : Nat) : ℚ) := by positivity
  have hlt : f.toRat * ((2 ^ B : Nat) : ℚ) < ((2 ^ B : Nat) : ℚ) := by nlinarith
  have hfl : ((f.toRat * ((2 ^ B : Nat) : ℚ)).floor : ℚ) ≤ f.toRat * ((2 ^ B : Nat) : ℚ) := Rat.floor_le _
  have : (f.toRat * ((2 ^ B : Nat) : ℚ)).floor < ((2 ^ B : Nat) : Int) := by
    have := lt_of_le_of_lt hfl hlt
    exact_mod_cast this
  have hpos : 0 < 2 ^ B := by positivity
  omega

end Sys2Proof.Machine
end

