-- ==== Sys2Proof/Laws/Elementary.lean ====
section
/-! SUPPORT. The fixed-point interval operations enclose what they name. -/

namespace Sys2Proof.Machine

/-- `I` encloses the real number `x` at scale `d`. -/
def Fixed.contains (d : Nat) (x : ℝ) (I : Fixed) : Prop :=
  (I.lo : ℝ) ≤ x * 10 ^ d ∧ x * 10 ^ d ≤ (I.hi : ℝ)

/-- `I` encloses the real number `x`. -/
def Enclosure.contains (x : ℝ) (I : Enclosure) : Prop := (I.lo : ℝ) ≤ x ∧ x ≤ (I.hi : ℝ)

@[simp] theorem unit_cast (d : Nat) : ((unit d : Int) : ℝ) = 10 ^ d := by simp [unit]

theorem unit_pos (d : Nat) : 0 < unit d := by unfold unit; positivity

theorem divDown_le {a b : Int} (hb : 0 < b) : ((divDown a b : Int) : ℝ) ≤ (a : ℝ) / b := by
  rw [le_div_iff₀ (by exact_mod_cast hb)]
  exact_mod_cast Int.ediv_mul_le a hb.ne'

theorem le_divUp {a b : Int} (hb : 0 < b) : (a : ℝ) / b ≤ ((divUp a b : Int) : ℝ) := by
  have := divDown_le (a := -a) hb
  unfold divDown at this
  unfold divUp
  push_cast at this ⊢
  rw [neg_div] at this
  linarith

theorem fixAdd_contains {d : Nat} {x y : ℝ} {I J : Fixed} (hI : I.contains d x) (hJ : J.contains d y) :
    (fixAdd I J).contains d (x + y) := by
  obtain ⟨a, b⟩ := hI
  obtain ⟨p, q⟩ := hJ
  unfold Fixed.contains fixAdd
  push_cast
  constructor <;> linarith

theorem fixNeg_contains {d : Nat} {x : ℝ} {I : Fixed} (hI : I.contains d x) :
    (fixNeg I).contains d (-x) := by
  obtain ⟨a, b⟩ := hI
  unfold Fixed.contains fixNeg
  push_cast
  constructor <;> linarith

theorem fixInt_contains (d : Nat) (m : Int) : (fixInt d m).contains d (m : ℝ) := by
  unfold Fixed.contains fixInt
  push_cast
  simp

theorem fixDiv_contains {d m : Nat} {x : ℝ} {I : Fixed} (hm : 0 < m) (hI : I.contains d x) :
    (fixDiv m I).contains d (x / m) := by
  obtain ⟨a, b⟩ := hI
  have hmi : (0 : Int) < (m : Int) := by exact_mod_cast hm
  have hmr : (0 : ℝ) < (m : ℝ) := by exact_mod_cast hm
  have h1 := divDown_le (a := I.lo) hmi
  have h2 := le_divUp (a := I.hi) hmi
  push_cast at h1 h2
  constructor
  · refine h1.trans ?_
    rw [div_mul_eq_mul_div]
    gcongr
  · refine le_trans ?_ h2
    rw [div_mul_eq_mul_div]
    gcongr

theorem fixOf_contains (d : Nat) (q : ℚ) : (fixOf d q).contains d (q : ℝ) := by
  have hd : (0 : Int) < (q.den : Int) := by exact_mod_cast q.den_pos
  have h1 := divDown_le (a := q.num * unit d) hd
  have h2 := le_divUp (a := q.num * unit d) hd
  have hq : (q : ℝ) * 10 ^ d = ((q.num * unit d : Int) : ℝ) / ((q.den : Int) : ℝ) := by
    rw [Rat.cast_def]; push_cast; rw [unit_cast]; ring
  unfold Fixed.contains
  rw [hq]
  exact ⟨h1, h2⟩

/-- A product lies between the extreme products of the corners. -/
theorem corner_bounds {a b p q x y : ℝ} (hx : a ≤ x ∧ x ≤ b) (hy : p ≤ y ∧ y ≤ q) :
    min (min (a * p) (a * q)) (min (b * p) (b * q)) ≤ x * y ∧
      x * y ≤ max (max (a * p) (a * q)) (max (b * p) (b * q)) := by
  have line : ∀ t : ℝ, min (a * t) (b * t) ≤ x * t ∧ x * t ≤ max (a * t) (b * t) := by
    intro t
    rcases le_total 0 t with h | h
    · exact ⟨(min_le_left _ _).trans (mul_le_mul_of_nonneg_right hx.1 h),
        (mul_le_mul_of_nonneg_right hx.2 h).trans (le_max_right _ _)⟩
    · exact ⟨(min_le_right _ _).trans (mul_le_mul_of_nonpos_right hx.2 h),
        (mul_le_mul_of_nonpos_right hx.1 h).trans (le_max_left _ _)⟩
  have lp := line p
  have lq := line q
  have across : min (x * p) (x * q) ≤ x * y ∧ x * y ≤ max (x * p) (x * q) := by
    rcases le_total 0 x with h | h
    · exact ⟨(min_le_left _ _).trans (mul_le_mul_of_nonneg_left hy.1 h),
        (mul_le_mul_of_nonneg_left hy.2 h).trans (le_max_right _ _)⟩
    · exact ⟨(min_le_right _ _).trans (mul_le_mul_of_nonpos_left hy.2 h),
        (mul_le_mul_of_nonpos_left hy.1 h).trans (le_max_left _ _)⟩
  constructor
  · refine le_trans ?_ across.1
    refine le_min (le_trans ?_ lp.1) (le_trans ?_ lq.1)
    · exact le_min ((min_le_left _ _).trans (min_le_left _ _)) ((min_le_right _ _).trans (min_le_left _ _))
    · exact le_min ((min_le_left _ _).trans (min_le_right _ _)) ((min_le_right _ _).trans (min_le_right _ _))
  · refine across.2.trans ?_
    refine max_le (lp.2.trans ?_) (lq.2.trans ?_)
    · exact max_le ((le_max_left _ _).trans (le_max_left _ _)) ((le_max_left _ _).trans (le_max_right _ _))
    · exact max_le ((le_max_right _ _).trans (le_max_left _ _)) ((le_max_right _ _).trans (le_max_right _ _))

theorem minInt_cast (a b : Int) : ((minInt a b : Int) : ℝ) = min (a : ℝ) (b : ℝ) := by
  unfold minInt
  split
  · rw [min_eq_left (by exact_mod_cast ‹_›)]
  · rw [min_eq_right (by exact_mod_cast (not_le.1 ‹_›).le)]

theorem maxInt_cast (a b : Int) : ((maxInt a b : Int) : ℝ) = max (a : ℝ) (b : ℝ) := by
  unfold maxInt
  split
  · rw [max_eq_right (by exact_mod_cast ‹_›)]
  · rw [max_eq_left (by exact_mod_cast (not_le.1 ‹_›).le)]

theorem fixMul_contains {d : Nat} {x y : ℝ} {I J : Fixed} (hI : I.contains d x) (hJ : J.contains d y) :
    (fixMul d I J).contains d (x * y) := by
  have hu := unit_pos d
  have hp : (0 : ℝ) < 10 ^ d := by positivity
  have hc := corner_bounds hI hJ
  have he : x * 10 ^ d * (y * 10 ^ d) / 10 ^ d = x * y * 10 ^ d := by field_simp
  constructor
  · refine (divDown_le hu).trans ?_
    rw [unit_cast, ← he]
    simp only [minInt_cast, Int.cast_mul]
    exact div_le_div_of_nonneg_right hc.1 hp.le
  · refine le_trans ?_ (le_divUp hu)
    rw [unit_cast, ← he]
    simp only [maxInt_cast, Int.cast_mul]
    exact div_le_div_of_nonneg_right hc.2 hp.le

theorem fixScale_contains {d : Nat} {x : ℝ} {I : Fixed} (m : Int) (hI : I.contains d x) :
    (fixScale m I).contains d (m * x) := by
  obtain ⟨a, b⟩ := hI
  unfold Fixed.contains fixScale
  simp only [minInt_cast, maxInt_cast, Int.cast_mul]
  rw [mul_assoc]
  rcases le_total (0 : ℝ) (m : ℝ) with h | h
  · exact ⟨(min_le_left _ _).trans (mul_le_mul_of_nonneg_left a h),
      (mul_le_mul_of_nonneg_left b h).trans (le_max_right _ _)⟩
  · exact ⟨(min_le_right _ _).trans (mul_le_mul_of_nonpos_left b h),
      (mul_le_mul_of_nonpos_left a h).trans (le_max_left _ _)⟩

theorem encOf_contains {d : Nat} {x : ℝ} {I : Fixed} (hI : I.contains d x) : (encOf d I).contains x := by
  obtain ⟨a, b⟩ := hI
  have hp : (0 : ℝ) < 10 ^ d := by positivity
  unfold Enclosure.contains encOf
  simp only [Rat.mkRat_eq_div]
  push_cast
  exact ⟨by rwa [div_le_iff₀ hp], by rwa [le_div_iff₀ hp]⟩

/-- Horner steps of the exponential series, from the remainder inwards. -/
theorem expSeries_contains {d : Nat} {x : ℝ} {X : Fixed} (hX : X.contains d x) :
    ∀ (n : Nat) (r : ℝ) (I : Fixed), I.contains d r →
      (expSeries d X n I).contains d ((∑ m ∈ Finset.range n, x ^ m / m.factorial) + x ^ n / n.factorial * r)
  | 0, r, I, h => by simpa [expSeries] using h
  | n + 1, r, I, h => by
    have hs := fixAdd_contains (fixInt_contains d 1)
      (fixDiv_contains (Nat.succ_pos n) (fixMul_contains hX h))
    have := expSeries_contains hX n _ _ hs
    rw [expSeries]
    convert this using 1
    rw [Finset.sum_range_succ, Nat.factorial_succ]
    have hf : (n.factorial : ℝ) ≠ 0 := by positivity
    have hn : ((n : ℝ) + 1) ≠ 0 := by positivity
    push_cast
    field_simp
    ring

/-- Horner steps of the odd series, from the remainder inwards. -/
theorem oddSeries_contains {d : Nat} {z2 : ℝ} {Z2 : Fixed} (hZ : Z2.contains d z2) :
    ∀ (n : Nat) (r : ℝ) (I : Fixed), I.contains d r →
      (oddSeries d Z2 n I).contains d ((∑ j ∈ Finset.range n, z2 ^ j / (2 * j + 1)) + z2 ^ n * r)
  | 0, r, I, h => by simpa [oddSeries] using h
  | n + 1, r, I, h => by
    have hs := fixAdd_contains (fixDiv_contains (Nat.succ_pos (2 * n)) (fixInt_contains d 1))
      (fixMul_contains hZ h)
    have := oddSeries_contains hZ n _ _ hs
    rw [oddSeries]
    convert this using 1
    rw [Finset.sum_range_succ]
    push_cast
    ring

/-- Horner steps of the cosine series, from the remainder inwards. -/
theorem cosSeries_contains {d : Nat} {r2 : ℝ} {R2 : Fixed} (hR : R2.contains d r2) :
    ∀ (n : Nat) (r : ℝ) (I : Fixed), I.contains d r →
      (cosSeries d R2 n I).contains d
        ((∑ j ∈ Finset.range n, (-r2) ^ j / (2 * j).factorial) + (-r2) ^ n / (2 * n).factorial * r)
  | 0, r, I, h => by simpa [cosSeries] using h
  | n + 1, r, I, h => by
    have hs := fixAdd_contains (fixInt_contains d 1)
      (fixNeg_contains (fixDiv_contains (m := (2 * n + 1) * (2 * n + 2)) (by positivity)
        (fixMul_contains hR h)))
    have := cosSeries_contains hR n _ _ hs
    rw [cosSeries]
    convert this using 1
    rw [Finset.sum_range_succ, show 2 * (n + 1) = 2 * n + 1 + 1 by ring, Nat.factorial_succ,
      Nat.factorial_succ]
    have hf : ((2 * n).factorial : ℝ) ≠ 0 := by positivity
    push_cast
    field_simp
    ring

/-! ### The search -/

theorem ziv_decided {f : Nat → Enclosure} {v : HPV} :
    ∀ {ds : List Nat}, ziv f ds = some v → ∃ d ∈ ds, settle (f d) = some v
  | d :: ds, h => by
    unfold ziv at h
    split at h
    · rename_i u hu
      exact ⟨d, List.mem_cons_self, hu.trans h⟩
    · obtain ⟨e, he, hv⟩ := ziv_decided h
      exact ⟨e, List.mem_cons_of_mem _ he, hv⟩

/-- Everything the rounding of an enclosed value can be: a value with the property, or one on which an
enclosure decides. -/
theorem roundEnclosed_spec (f : Nat → Enclosure) (P : HPV → Prop) (h : ∃ v, P v) :
    P (roundEnclosed f P h) ∨ ∃ d, settle (f d) = some (roundEnclosed f P h) := by
  unfold roundEnclosed
  split
  · rename_i v hv
    obtain ⟨d, -, hd⟩ := ziv_decided hv
    exact Or.inr ⟨d, hd⟩
  · exact (zivFrom f P (h.elim fun v hv => ⟨v, Or.inl hv⟩) Config.zivStart).property

/-- Where every deciding enclosure decides on a value with the property, the rounding has the property. -/
theorem roundEnclosed_sound {f : Nat → Enclosure} {P : HPV → Prop} (h : ∃ v, P v)
    (hs : ∀ d v, settle (f d) = some v → P v) : P (roundEnclosed f P h) :=
  (roundEnclosed_spec f P h).elim id fun ⟨d, hd⟩ => hs d _ hd

end Sys2Proof.Machine
end

