-- ==== Sys2Proof/Laws/Ops.lean ====
section
/-! SUPPORT. What each shared operation can do, said once: the acceptance checks, the session reads, the
evaluation, one round, and the loop of rounds. -/

namespace Sys2Proof.Machine

/-! ### The acceptance checks -/

theorem gate_legal {i : Instr} {s : State} (h : legalIn i s.state = true) (body : Result) :
    gate i s body = body := by simp [gate, h]

theorem gate_error {i : Instr} {s : State} (h : legalIn i s.state = false) (he : s.state = .error)
    (body : Result) : gate i s body = .next (ignoreCommand s) := by
  rw [gate, h]; simp [he]

theorem gate_sequence {i : Instr} {s : State} (h : legalIn i s.state = false) (he : s.state ≠ .error)
    (body : Result) : gate i s body = .next (enterError (sequenceRaise s) (opcOf i) s) := by
  simp [gate, h, he]

/-- Everything the acceptance checks can do. -/
theorem gate_cases (i : Instr) (s : State) (body : Result) :
    (legalIn i s.state = true ∧ gate i s body = body) ∨
      (legalIn i s.state = false ∧ s.state = .error ∧ gate i s body = .next (ignoreCommand s)) ∨
      (legalIn i s.state = false ∧ s.state ≠ .error ∧
        gate i s body = .next (enterError (sequenceRaise s) (opcOf i) s)) := by
  cases hl : legalIn i s.state
  · by_cases he : s.state = .error
    · exact Or.inr (Or.inl ⟨rfl, he, gate_error hl he body⟩)
    · exact Or.inr (Or.inr ⟨rfl, he, gate_sequence hl he body⟩)
  · exact Or.inl ⟨rfl, gate_legal hl body⟩

/-! ### Reads of the session -/

theorem withBank_some {s : State} {k : ConstantBank} (h : s.bank = some k) (body : ConstantBank → State) :
    withBank s body = .next (body k) := by simp [withBank, h]

theorem withBank_none {s : State} (h : s.bank = none) (body : ConstantBank → State) :
    withBank s body = .fault .sessionAbsent := by simp [withBank, h]

theorem withActive_some {s : State} {a : ActiveConfig} (h : s.act = some a) (body : ActiveConfig → State) :
    withActive s body = .next (body a) := by simp [withActive, h]

theorem withActive_none {s : State} (h : s.act = none) (body : ActiveConfig → State) :
    withActive s body = .fault .sessionAbsent := by simp [withActive, h]

theorem withSession_some {s : State} {a : ActiveConfig} {k : ConstantBank} (ha : s.act = some a)
    (hk : s.bank = some k) (body : ActiveConfig → ConstantBank → State) :
    withSession s body = .next (body a k) := by simp [withSession, ha, hk]

theorem withSession_next {s t : State} {body : ActiveConfig → ConstantBank → State}
    (h : withSession s body = .next t) :
    ∃ a k, s.act = some a ∧ s.bank = some k ∧ t = body a k := by
  unfold withSession at h
  split at h
  · rename_i a k ha hk
    cases h
    exact ⟨a, k, ha, hk, rfl⟩
  · cases h

/-! ### The end of a command -/

@[simp] theorem finishCommand_ok (i : Instr) (t : State) : finishCommand i (.ok t) = completeDone t := rfl

@[simp] theorem finishCommand_error (i : Instr) (r : Raise) (t : State) :
    finishCommand i (.error (r, t)) = enterError r (opcOf i) t := rfl

/-! ### Lengths -/

theorem lenOf_pos (pad : PadMode) {B : Nat} (hB : 1 ≤ B) (m : Nat) : 1 ≤ lenOf pad B m := by
  unfold lenOf
  split
  · exact hB
  · split <;> omega

theorem lenOf_le (pad : PadMode) {B m : Nat} (hB : 1 ≤ B) (hm : m < 2 ^ B) : lenOf pad B m ≤ B := by
  unfold lenOf
  split
  · exact le_rfl
  · split
    · exact hB
    · rename_i h
      exact (Nat.log2_lt h).2 hm

@[simp] theorem digitString_length (L : Nat) (x : BitVec 128) : (digitString L x).length = L := by
  simp [digitString]

/-! ### The evaluation -/

/-- A successful extraction, field by field (42_generation.md R82). -/
theorem extract_ok {pad : PadMode} {B : Nat} {r : HPV} {x : EvalResult} (h : extract pad B r = .ok x) :
    x.mixres = r ∧ x.intpart = hpFloor r ∧ hpFrac B r = .ok x.fracp ∧
      x.scaled = BitVec.ofNat 128 (scaleB B x.fracp) ∧ x.len = lenOf pad B (scaleB B x.fracp) := by
  unfold extract at h
  cases hf : hpFrac B r with
  | error e => rw [hf] at h; cases h
  | ok f => rw [hf] at h; cases h; exact ⟨rfl, rfl, rfl, rfl, rfl⟩

/-- A successful evaluation passed the checks of 42_generation.md R86 and is a mixing result with its
extraction. -/
theorem evaluate_ok {a : ActiveConfig} {k : ConstantBank} {n : Int} {r : EvalResult}
    (h : evaluate a k n = .ok r) :
    a.p = 100#8 ∧ 0 < n ∧ mix a k n = .ok r.mixres ∧ extract a.pad a.b.toNat r.mixres = .ok r := by
  unfold evaluate at h
  split at h
  · cases h
  · split at h
    · cases h
    · rename_i hp hn
      refine ⟨not_not.1 hp, not_le.1 hn, ?_⟩
      unfold mixAndExtract at h
      cases hm : mix a k n with
      | error e => rw [hm] at h; cases h
      | ok m =>
        rw [hm] at h
        change (match extract a.pad a.b.toNat m with
          | .ok r => Except.ok r
          | .error err => .error (arithRaise n err)) = .ok r at h
        cases hx : extract a.pad a.b.toNat m with
        | error e => rw [hx] at h; cases h
        | ok x =>
          rw [hx] at h
          cases h
          have := (extract_ok hx).1
          subst this
          exact ⟨rfl, hx⟩

/-- The bounds of a successful evaluation (42_generation.md R82, R83, R94). -/
theorem evaluate_bounds {a : ActiveConfig} {k : ConstantBank} {n : Int} {r : EvalResult}
    (h : evaluate a k n = .ok r) (hb : 1 ≤ a.b.toNat) :
    0 ≤ r.fracp.toRat ∧ r.fracp.toRat < 1 ∧ scaleB a.b.toNat r.fracp < 2 ^ a.b.toNat ∧ 1 ≤ r.len ∧
      r.len ≤ a.b.toNat := by
  obtain ⟨-, -, -, hx⟩ := evaluate_ok h
  obtain ⟨-, -, hf, -, hl⟩ := extract_ok hx
  obtain ⟨h0, h1⟩ := hpFrac_bounds hf
  have hs := scaleB_lt (B := a.b.toNat) h1
  exact ⟨h0, h1, hs, hl ▸ lenOf_pos _ hb _, hl ▸ lenOf_le _ hb hs⟩

/-! ### Rounds -/

/-- Everything a successful round does (42_generation.md R84). -/
theorem oneRound_ok {a : ActiveConfig} {k : ConstantBank} {s t : State} (h : oneRound a k s = .ok t) :
    ∃ r, evaluate a k (roundIndex s) = .ok r ∧ s.bs.length + r.len ≤ Config.bsCapBits ∧
      t = appendRound r (publish (roundIndex s) r s) := by
  unfold oneRound at h
  split at h
  · cases h
  · rename_i r hr
    split at h
    · cases h
    · rename_i hc
      cases h
      exact ⟨r, hr, not_lt.1 hc, rfl⟩

/-- Everything a failing round reports (42_generation.md R84). -/
theorem oneRound_error {a : ActiveConfig} {k : ConstantBank} {s : State} {e : Raise}
    (h : oneRound a k s = .error e) :
    evaluate a k (roundIndex s) = .error e ∨
      ∃ r, evaluate a k (roundIndex s) = .ok r ∧ Config.bsCapBits < s.bs.length + r.len ∧
        e = ⟨.bitstreamOverflow, 0#8, BitVec.ofInt 32 (roundIndex s)⟩ := by
  unfold oneRound at h
  split at h
  · rename_i e' he
    cases h
    exact Or.inl he
  · rename_i r hr
    split at h
    · rename_i hc
      cases h
      exact Or.inr ⟨r, hr, hc, rfl⟩
    · cases h

/-- The loop of rounds keeps whatever every successful round keeps, both when it ends and in the state it
hands to an error. -/
theorem runRounds_induct {a : ActiveConfig} {k : ConstantBank} {P : Nat → State → Prop}
    (hstep : ∀ m s t, P (m + 1) s → oneRound a k s = .ok t → P m t) :
    ∀ m s, P m s →
      match runRounds a k m s with
      | .ok t => P 0 t
      | .error (e, t) => ∃ j, P (j + 1) t ∧ oneRound a k t = .error e
  | 0, s, h => by simpa [runRounds] using h
  | m + 1, s, h => by
    unfold runRounds
    cases hr : oneRound a k s with
    | error e => exact ⟨m, h, hr⟩
    | ok t => exact runRounds_induct hstep m t (hstep m s t h hr)

/-- The loop of rounds changes only the result registers, the bitstream and the counters. -/
structure SameSession (s t : State) : Prop where
  config : t.config = s.config
  roundCount : t.roundCount = s.roundCount
  evalArg : t.evalArg = s.evalArg
  state : t.state = s.state
  cmdOvr : t.cmdOvr = s.cmdOvr
  wlock : t.wlock = s.wlock
  cmdIgn : t.cmdIgn = s.cmdIgn
  errCode : t.errCode = s.errCode
  errDetail : t.errDetail = s.errDetail
  errOpc : t.errOpc = s.errOpc
  errIdx : t.errIdx = s.errIdx
  hx : t.hx = s.hx
  irqEn : t.irqEn = s.irqEn
  irqStat : t.irqStat = s.irqStat
  cval : t.cval = s.cval
  bank : t.bank = s.bank
  act : t.act = s.act
  inFlight : t.inFlight = s.inFlight
  inputs : t.inputs = s.inputs
  response : t.response = s.response
  busyReads : t.busyReads = s.busyReads

theorem SameSession.refl (s : State) : SameSession s s := by constructor <;> rfl

theorem SameSession.trans {s t u : State} (h : SameSession s t) (g : SameSession t u) :
    SameSession s u := by
  constructor
  · exact g.config.trans h.config
  · exact g.roundCount.trans h.roundCount
  · exact g.evalArg.trans h.evalArg
  · exact g.state.trans h.state
  · exact g.cmdOvr.trans h.cmdOvr
  · exact g.wlock.trans h.wlock
  · exact g.cmdIgn.trans h.cmdIgn
  · exact g.errCode.trans h.errCode
  · exact g.errDetail.trans h.errDetail
  · exact g.errOpc.trans h.errOpc
  · exact g.errIdx.trans h.errIdx
  · exact g.hx.trans h.hx
  · exact g.irqEn.trans h.irqEn
  · exact g.irqStat.trans h.irqStat
  · exact g.cval.trans h.cval
  · exact g.bank.trans h.bank
  · exact g.act.trans h.act
  · exact g.inFlight.trans h.inFlight
  · exact g.inputs.trans h.inputs
  · exact g.response.trans h.response
  · exact g.busyReads.trans h.busyReads

theorem oneRound_session {a : ActiveConfig} {k : ConstantBank} {s t : State}
    (h : oneRound a k s = .ok t) : SameSession s t := by
  obtain ⟨r, -, -, rfl⟩ := oneRound_ok h
  constructor <;> rfl

/-- The state a loop of rounds ends in, or hands to an error, is of the same session. -/
theorem runRounds_session (a : ActiveConfig) (k : ConstantBank) (m : Nat) (s : State) :
    match runRounds a k m s with
    | .ok t => SameSession s t
    | .error (_, t) => SameSession s t := by
  have := runRounds_induct (a := a) (k := k) (P := fun _ t => SameSession s t)
    (fun _ _ _ h hr => h.trans (oneRound_session hr)) m s (SameSession.refl s)
  revert this
  cases runRounds a k m s with
  | ok t => exact id
  | error p => exact fun ⟨_, h, _⟩ => h

end Sys2Proof.Machine
end

