-- ==== Sys2Proof/Laws/Engine.lean ====
section
/-! SUPPORT. What a step can do, and what the bus operations can do, said once. -/

namespace Sys2Proof.Machine

/-! ### The step -/

theorem step_nil {s : State} (h : s.inputs = []) : step s = engineMove s := by simp [step, h]

theorem step_cons {s : State} {x : Input} {rest : List Input} (h : s.inputs = x :: rest) :
    step s = performInput x { s with inputs := rest } := by simp [step, h]

theorem engineMove_none {s : State} (h : s.inFlight = none) : engineMove s = .next s := by
  simp [engineMove, h]

theorem engineMove_some {s : State} {w : Word} (h : s.inFlight = some w) :
    engineMove s = runCommand w s := by simp [engineMove, h]

theorem runCommand_command {w : Word} {i : Instr} (h : decode w = .command i) (s : State) :
    runCommand w s = exec i s := by simp [runCommand, h]

theorem runCommand_illegal {w : Word} {d : BitVec 8} (h : decode w = .illegal d) (s : State) :
    runCommand w s = .next (illegalWord d w s) := by simp [runCommand, h]

/-- Everything a step can be: an access, a reset, a completion, or idling. -/
theorem step_cases (s : State) :
    (∃ a rest, s.inputs = .bus a :: rest ∧ step s = .next (performAccess a { s with inputs := rest })) ∨
      (∃ rest, s.inputs = .rst :: rest ∧ step s = .next (hardReset { s with inputs := rest })) ∨
      (∃ rest, (s.inputs = .complete :: rest ∨ (s.inputs = [] ∧ rest = [])) ∧
        step s = engineMove { s with inputs := rest }) := by
  cases h : s.inputs with
  | nil =>
    refine Or.inr (Or.inr ⟨[], Or.inr ⟨rfl, rfl⟩, ?_⟩)
    rw [step_nil h]
    congr
    rw [← h]
  | cons x rest =>
    cases x with
    | bus a => exact Or.inl ⟨a, rest, rfl, by rw [step_cons h]; rfl⟩
    | rst => exact Or.inr (Or.inl ⟨rest, rfl, by rw [step_cons h]; rfl⟩)
    | complete => exact Or.inr (Or.inr ⟨rest, Or.inl rfl, by rw [step_cons h]; rfl⟩)

/-! ### The bus -/

theorem performAccess_refused {a : Access} (h : a.admitted = false) (s : State) :
    performAccess a s = refuseAccess s := by simp [performAccess, h]

theorem performAccess_read {off : Offset} {n : Nat} (h : (Access.read n off).admitted = true) (s : State) :
    performAccess (.read n off) s = answerRead (regAt off.toNat) s := by simp [performAccess, h]

theorem performAccess_write {off : Offset} {n : Nat} {v : Word}
    (h : (Access.write n off v).admitted = true) (s : State) :
    performAccess (.write n off v) s = answerWrite (regAt off.toNat) v s := by simp [performAccess, h]

theorem answerRead_reliable {r : Reg} {s : State} (h : s.busy = false ∨ reliableWhileBusy r = true) :
    answerRead r s = { s with response := some ⟨false, readReg s r⟩ } := by
  unfold answerRead
  rcases h with h | h <;> simp [h]

theorem answerRead_free {r : Reg} {s : State} (hb : s.busy = true) (hr : reliableWhileBusy r = false) :
    answerRead r s =
      { s with response := some ⟨false, Config.busyRead s.busyReads⟩, busyReads := s.busyReads + 1 } := by
  simp [answerRead, hb, hr]

/-- Everything a register write can change: a stored register, a sticky bit, or the command in flight. -/
theorem writeReg_cases (r : Reg) (v : Word) (s : State) :
    writeReg r v s = s ∨
      writeReg r v s = { s with wlock := true } ∨
      (s.busy = false ∧ s.state = .idle ∧ writeReg r v s = { s with config := configOf v }) ∨
      (s.busy = false ∧ s.state = .idle ∧ writeReg r v s = { s with roundCount := v.extractLsb' 0 16 }) ∨
      (s.busy = false ∧ writeReg r v s = { s with evalArg := v }) ∨
      writeReg r v s = { s with cmdOvr := true } ∨
      (s.busy = false ∧ writeReg r v s = acceptCommand v s) ∨
      writeReg r v s = { s with irqEn := v.extractLsb' 0 2 } ∨
      writeReg r v s = { s with irqStat := clearPending s.irqStat v } := by
  have lock : configLocked s = false → s.busy = false ∧ s.state = .idle := by
    unfold configLocked
    cases s.busy <;> simp
  cases r with
  | config =>
    cases h : configLocked s
    · exact Or.inr (Or.inr (Or.inl ⟨(lock h).1, (lock h).2, by simp [writeReg, h]⟩))
    · exact Or.inr (Or.inl (by simp [writeReg, h]))
  | roundCount =>
    cases h : configLocked s
    · exact Or.inr (Or.inr (Or.inr (Or.inl ⟨(lock h).1, (lock h).2, by simp [writeReg, h]⟩)))
    · exact Or.inr (Or.inl (by simp [writeReg, h]))
  | evalArg =>
    cases h : s.busy
    · exact Or.inr (Or.inr (Or.inr (Or.inr (Or.inl ⟨rfl, by simp [writeReg, h]⟩))))
    · exact Or.inr (Or.inl (by simp [writeReg, h]))
  | cmd =>
    cases h : s.busy
    · exact Or.inr (Or.inr (Or.inr (Or.inr (Or.inr (Or.inr (Or.inl ⟨rfl, by simp [writeReg, h]⟩))))))
    · exact Or.inr (Or.inr (Or.inr (Or.inr (Or.inr (Or.inl (by simp [writeReg, h]))))))
  | irqEn => exact Or.inr (Or.inr (Or.inr (Or.inr (Or.inr (Or.inr (Or.inr (Or.inl rfl)))))))
  | irqStat => exact Or.inr (Or.inr (Or.inr (Or.inr (Or.inr (Or.inr (Or.inr (Or.inr rfl)))))))
  | _ => exact Or.inl rfl

end Sys2Proof.Machine
end

