-- ==== Sys2Proof/Laws/Packing.lean ====
section
/-! SUPPORT. The bounds of the packer, and that every operation on the two buffers keeps `Memory.wf`: the
bitstream within 32768 bits and the aggregate within 8192 digits (10_state.md R20). -/

namespace Sys2Proof.Machine

/-! ### Bounds -/

/-- A bit string denotes an integer below two to its length. -/
theorem bitsValue_lt (bits : List Bool) : bitsValue bits < 2 ^ bits.length := by
  have grow : ∀ (l : List Bool) (v m : Nat), v < 2 ^ m →
      l.foldl (fun v b => 2 * v + b.toNat) v < 2 ^ (m + l.length) := by
    intro l
    induction l with
    | nil => intro v m h; simpa using h
    | cons b l ih =>
      intro v m h
      have := ih (2 * v + b.toNat) (m + 1) (by cases b <;> simp [pow_succ] <;> omega)
      simpa [List.length_cons, Nat.add_assoc, Nat.add_comm 1] using this
  simpa [bitsValue] using grow bits 0 0 (by norm_num)

/-- The aggregate of a stream within its capacity fits the digit buffer (42_generation.md R85). -/
theorem aggregateDigits_length_le {bits : List Bool} (h : bits.length ≤ Config.bsCapBits) :
    (aggregateDigits bits).length ≤ Config.hexCap := by
  unfold aggregateDigits
  split
  · simp
  · simp only [hexDigits, List.length_map, List.length_range, hexDigitCount, bitLen]
    split
    · decide
    · rename_i h0
      have := (Nat.log2_lt h0).2 (bitsValue_lt bits)
      show _ ≤ 8192
      have : bits.length ≤ 32768 := h
      omega

/-! ### The buffers keep their form -/

theorem wf_iff (s : State) :
    Memory.wf s = true ↔ s.bs.length ≤ Config.bsCapBits ∧ s.hx.length ≤ Config.hexCap := by
  simp [Memory.wf]

theorem wf_reset : Memory.wf State.reset = true := rfl

theorem wf_hardReset (s : State) : Memory.wf (hardReset s) = true := rfl

theorem wf_startRun (s : State) : Memory.wf (startRun s) = true := rfl

theorem wf_clearSession (s : State) : Memory.wf (clearSession s) = true := rfl

theorem wf_enterError (r : Raise) (opc : BitVec 8) (s : State) : Memory.wf (enterError r opc s) = true := rfl

theorem wf_aggregate {s : State} (h : Memory.wf s = true) : Memory.wf (aggregate s) = true := by
  rw [wf_iff] at h ⊢
  exact ⟨h.1, aggregateDigits_length_le h.1⟩

theorem wf_oneRound {a : ActiveConfig} {k : ConstantBank} {s t : State} (h : Memory.wf s = true)
    (hr : oneRound a k s = .ok t) : Memory.wf t = true := by
  obtain ⟨r, -, hlen, rfl⟩ := oneRound_ok hr
  rw [wf_iff] at h ⊢
  refine ⟨?_, h.2⟩
  show (s.bs ++ digitString r.len r.scaled).length ≤ _
  simpa [digitString] using hlen

theorem wf_runRounds {a : ActiveConfig} {k : ConstantBank} {m : Nat} {s : State} (h : Memory.wf s = true) :
    match runRounds a k m s with
    | .ok t => Memory.wf t = true
    | .error (_, t) => Memory.wf t = true := by
  have := runRounds_induct (a := a) (k := k) (P := fun _ t => Memory.wf t = true)
    (fun _ _ _ hu hr => wf_oneRound hu hr) m s h
  revert this
  cases runRounds a k m s with
  | ok t => exact id
  | error p => exact fun ⟨_, hp, _⟩ => hp

theorem wf_performAccess {a : Access} {s : State} (h : Memory.wf s = true) :
    Memory.wf (performAccess a s) = true := by
  unfold performAccess
  split
  · split
    · unfold answerRead
      split <;> exact h
    · rename_i off v _
      show Memory.wf (writeReg (regAt off.toNat) v s) = true
      rcases writeReg_cases (regAt off.toNat) v s with g | g | ⟨-, -, g⟩ | ⟨-, -, g⟩ | ⟨-, g⟩ | g | ⟨-, g⟩ | g | g <;>
        rw [g] <;> try exact h
      unfold acceptCommand
      repeat' split
      all_goals exact h
  · exact h

end Sys2Proof.Machine
end

