-- ==== Sys2Proof/Laws/PerInstr.lean ====
section
/-! SUPPORT. Statements about every instruction, made per instruction. -/

/-- The word of an instruction is one of the fifteen legal words, and the instruction is well-formed
(30_encoding.md R42). -/
def Sys2Proof.Laws.EncodeLegal.Statement (i : Sys2Proof.Instr) : Prop :=
  i.wellFormed = true ∧ Sys2Proof.legalWord (Sys2Proof.encode i) = true

namespace Sys2Proof.Laws.EncodeLegal

theorem nop : Statement .nop := by unfold Statement; decide

theorem init : Statement .init := by unfold Statement; decide

theorem getc (k : ConstName) : Statement (.getc k) := by unfold Statement; cases k <;> decide

theorem eval : Statement .eval := by unfold Statement; decide

theorem step : Statement .step := by unfold Statement; decide

theorem run : Statement .run := by unfold Statement; decide

theorem final : Statement .final := by unfold Statement; decide

theorem clear : Statement .clear := by unfold Statement; decide

end Sys2Proof.Laws.EncodeLegal
end

