-- ==== Sys2Proof/Machine/Rendering.lean ====
section
/-! DEFINITION. The host-side text renderings (42_generation.md R96 to R99). They are outside the block
(00_scope.md R4); the spec gives them so that a test bench can compare text. -/

namespace Sys2Proof.Machine

/-- One character of "0123456789abcdef" (42_generation.md R97). -/
def digitChar (d : Nat) : Char :=
  if d < 10 then Char.ofNat (48 + d) else Char.ofNat (87 + d)

/-- The `len` digits of `n` in a base, most significant first. -/
def digitsOf (base len n : Nat) : List Char :=
  (List.range len).map fun i => digitChar (n / base ^ (len - 1 - i) % base)

/-- The `P` significant digits of a canonical coefficient. -/
def coefText (v : HPV) : List Char := digitsOf 10 Config.precision v.c

/-- The unsigned positional text of a nonzero value (42_generation.md R96). -/
def decimalBody (v : HPV) : List Char :=
  if (Config.precision : Int) - 1 ≤ v.adj then
    coefText v ++ List.replicate (v.adj - Config.precision + 1).toNat '0'
  else if 0 ≤ v.adj then
    (coefText v).take (v.adj + 1).toNat ++ '.' :: (coefText v).drop (v.adj + 1).toNat
  else '0' :: '.' :: List.replicate (-v.adj - 1).toNat '0' ++ coefText v

/-- The decimal text of a value (42_generation.md R96). -/
def decimalText (v : HPV) : List Char :=
  if v.c = 0 then ['0'] else if v.s then '-' :: decimalBody v else decimalBody v

/-- The binary text of a digit string (42_generation.md R97, R98). -/
def binaryText (bits : List Bool) : List Char := bits.map fun b => if b then '1' else '0'

/-- The minimal-width hexadecimal text of `scaled` (42_generation.md R97). -/
def scaledHexText (scaled : BitVec 128) : List Char :=
  digitsOf 16 (hexDigitCount scaled.toNat) scaled.toNat

/-- The aggregate hexadecimal text (42_generation.md R98). -/
def aggregateText (digits : List (BitVec 4)) : List Char := digits.map fun d => digitChar d.toNat

/-- The rest of a grouped text when the current chunk already holds `k` characters. -/
def groupFrom : Nat → List Char → List Char
  | _, [] => []
  | k, c :: cs => if k = 16 then ',' :: c :: groupFrom 1 cs else c :: groupFrom (k + 1) cs

/-- `group16(t)`: chunks of 16 characters, joined by "," (42_generation.md R99). -/
def group16 (t : List Char) : List Char := groupFrom 0 t

end Sys2Proof.Machine
end

