-- ==== Sys2Proof/Tests/Slice0.lean ====
section
/-! SUPPORT. Tests of the model, each one step or one operation, with the results the spec gives
(95_test_vectors.md and the rules' own examples); and, for each statement with hypotheses, a `witness_`
theorem with concrete states and operands that meet them. -/

open Sys2Proof Sys2Proof.Machine

namespace Sys2Proof.Tests

-- One theorem at a time: each kernel evaluation would otherwise take a thread of its own.
set_option Elab.async false
set_option maxRecDepth 20000

/-! ### Helpers -/

/-- Whether an outcome is a next state with a property. -/
def nextIs (r : Result) (p : State → Bool) : Bool :=
  match r with
  | .next t => p t
  | _ => false

/-- Whether an evaluation succeeds with a property. -/
def okIs {ε α : Type} (x : Except ε α) (p : α → Bool) : Bool :=
  match x with
  | .ok r => p r
  | .error _ => false

/-- The next state of an outcome, or the given state where there is none. -/
def nextOr (s : State) : Result → State
  | .next t => t
  | _ => s

/-- Reset with a configuration and a round count. -/
def idleWith (c : ConfigReg) (rc : BitVec 16) : State := { State.reset with config := c, roundCount := rc }

/-- The state `INIT` leaves, but for the completion bits. -/
def readyWith (c : ConfigReg) (rc : BitVec 16) : State := startRun (idleWith c rc)

/-- B = 2, PAD = 1. -/
def cfg2 : ConfigReg := ⟨100#8, 2#8, .v2, .full, .fixed⟩

/-- READY with two rounds of B = 2, PAD = 1. -/
def ready2 : State := readyWith cfg2 2#16

/-- READY in the reset configuration. -/
def readyRef : State := readyWith ConfigReg.reset 150#16

/-- READY in the V1 configuration. -/
def readyV1 : State := readyWith ⟨100#8, 128#8, .v1, .full, .minimal⟩ 150#16

/-- DONE after no rounds. -/
def done0 : State := aggregate (readyWith ConfigReg.reset 0#16)

/-- ERROR after the illegal word 0x08. -/
def errorState : State := enterError ⟨.illegalCommand, 1#8, 0#32⟩ 8#8 State.reset

/-- A `RUN` in flight. -/
def busyState : State := { ready2 with inFlight := some 5#32 }

/-- The value `c * 10^e`. -/
def num (c : Nat) (e : Int) : HPV := ⟨false, c, e⟩

/-- The value 1. -/
def one : HPV := num (10 ^ 99) (-99)

/-- The canonical value `10^6`. -/
def million : HPV := num (10 ^ 99) (-93)

/-! ### Well-formedness: each check refuses an ill-formed term -/

theorem test_wellFormed_refuses_words :
    legalWord 0x00000008#32 = false ∧ legalWord 0x00000801#32 = false ∧ legalWord 0x00000101#32 = false := by
  decide

theorem test_admitted_refuses_accesses :
    (Access.read 2 0x000#14).admitted = false ∧ (Access.write 4 0x002#14 0#32).admitted = false ∧
      (Access.read 4 0x3FFC#14).admitted = true := by decide

theorem test_canonical_refuses_values :
    HPV.canonical ⟨true, 0, 0⟩ = false ∧ HPV.canonical ⟨false, 0, 1⟩ = false ∧
      (num (10 ^ 99 - 1) 0).canonical = false ∧ (num (10 ^ 100) 0).canonical = false ∧
      (num (10 ^ 99) 32768).canonical = false ∧ (num (10 ^ 99) (-32769)).canonical = false ∧
      one.canonical = true := by decide +kernel

theorem test_legal_refuses_configurations :
    ActiveConfig.legal ⟨99#8, 128#8, .v2, .full, .minimal, 150#16⟩ = false ∧
      ActiveConfig.legal ⟨100#8, 0#8, .v2, .full, .minimal, 150#16⟩ = false ∧
      ActiveConfig.legal ⟨100#8, 129#8, .v2, .full, .minimal, 150#16⟩ = false := by decide

/-! ### Decoding: words written out from 30_encoding.md R40 and R42 (RSV, KSEL, OP) -/

theorem test_decode_session_words :
    decode (0b000000000000000000000#21 ++ 0b000#3 ++ 0b00000000#8) = .command .nop ∧
      decode (0b000000000000000000000#21 ++ 0b000#3 ++ 0b00000001#8) = .command .init ∧
      decode (0b000000000000000000000#21 ++ 0b000#3 ++ 0b00000111#8) = .command .clear := by decide

theorem test_decode_getc_words :
    decode (0b000000000000000000000#21 ++ 0b000#3 ++ 0b00000010#8) = .command (.getc .e) ∧
      decode (0b000000000000000000000#21 ++ 0b001#3 ++ 0b00000010#8) = .command (.getc .pi) ∧
      decode (0b000000000000000000000#21 ++ 0b010#3 ++ 0b00000010#8) = .command (.getc .phi) ∧
      decode (0b000000000000000000000#21 ++ 0b011#3 ++ 0b00000010#8) = .command (.getc .sqrt2) ∧
      decode (0b000000000000000000000#21 ++ 0b100#3 ++ 0b00000010#8) = .command (.getc .sqrt3) ∧
      decode (0b000000000000000000000#21 ++ 0b101#3 ++ 0b00000010#8) = .command (.getc .gamma) ∧
      decode (0b000000000000000000000#21 ++ 0b110#3 ++ 0b00000010#8) = .command (.getc .delta) ∧
      decode (0b000000000000000000000#21 ++ 0b111#3 ++ 0b00000010#8) = .command (.getc .rho) := by decide

theorem test_decode_generation_words :
    decode (0b000000000000000000000#21 ++ 0b000#3 ++ 0b00000011#8) = .command .eval ∧
      decode (0b000000000000000000000#21 ++ 0b000#3 ++ 0b00000100#8) = .command .step ∧
      decode (0b000000000000000000000#21 ++ 0b000#3 ++ 0b00000101#8) = .command .run ∧
      decode (0b000000000000000000000#21 ++ 0b000#3 ++ 0b00000110#8) = .command .final := by decide

theorem test_decode_illegal_words :
    decode 0x000000FF#32 = .illegal 1#8 ∧ decode 0x80000000#32 = .illegal 2#8 ∧
      decode 0x00000902#32 = .illegal 2#8 ∧ decode 0x00000101#32 = .illegal 3#8 := by decide

theorem test_decodeTableWord :
    decodeTableWord 32 0x702 = some (.getc .rho) ∧ decodeTableWord 32 0x800 = none := by decide

theorem test_assemble :
    assemble "GETC" (some "pi") = some (.getc .pi) ∧ assemble "GETC" (some "7") = some (.getc .rho) ∧
      assemble "RUN" none = some .run ∧ assemble "GETC" none = none := by decide +kernel

/-! ### Arithmetic (95_test_vectors.md section 3) -/

theorem test_round_ties :
    roundP ((10 ^ 100 + 5 : Nat) : ℚ) = .ok (num (10 ^ 99) 1) ∧
      roundP ((10 ^ 100 + 15 : Nat) : ℚ) = .ok (num (10 ^ 99 + 2) 1) := by decide +kernel

theorem test_round_exponent_range :
    hpMul (num (10 ^ 99) 32767) one = .ok (num (10 ^ 99) 32767) ∧
      hpMul (num (10 ^ 99) 32767) (num (10 ^ 99) (-98)) = .error .expRange := by decide +kernel

theorem test_floor_below_zero :
    hpFloor ⟨true, 95 * 10 ^ 98, -99⟩ = ⟨true, 10 ^ 99, -98⟩ := by decide +kernel

theorem test_frac_outcomes :
    hpFrac 128 ⟨true, 25 * 10 ^ 98, -100⟩ = .ok (num (75 * 10 ^ 98) (-100)) ∧
      hpFrac 128 ⟨true, 10 ^ 99, -249⟩ = .error .fracNotRepresentable ∧
      hpFrac 128 (num (15 * 10 ^ 98) (-39)) = .ok HPV.zero ∧
      hpFrac 128 (num (15 * 10 ^ 98) (-38)) = .error .precisionLoss ∧
      hpFrac 1 (num (15 * 10 ^ 98) (-1)) = .ok HPV.zero ∧
      hpFrac 1 (num (15 * 10 ^ 98) 0) = .error .precisionLoss := by decide +kernel

theorem test_scale :
    scaleB 128 (num (78125 * 10 ^ 95) (-100)) = 0xc8000000000000000000000000000000 ∧
      scaleB 1 (num (5 * 10 ^ 99) (-100)) = 1 ∧ scaleB 1 (num (5 * 10 ^ 99 - 1) (-100)) = 0 ∧
      scaleB 128 (num (10 ^ 99) (-139)) = 0 ∧ scaleB 128 (num (10 ^ 99) (-137)) = 3 := by decide +kernel

theorem test_exp_one : hpExp one = .ok romE := by decide +kernel

theorem test_ln_two : hpLn (num (2 * 10 ^ 99) (-99)) = .ok
    (num 6931471805599453094172321214581765680755001343602552541206800094933936219696947156058633269964186875
      (-100)) := by decide +kernel

theorem test_cos_pi : hpCos romPi = .ok ⟨true, 10 ^ 99, -99⟩ := by decide +kernel

/-! ### Evaluations (95_test_vectors.md sections 4 and 5) -/

theorem test_evaluate_v2_round1 :
    okIs (evaluate (latchConfig readyRef) (rom .full) 1) (fun r =>
      r.scaled == 0x31ffb5b5d77d66ba482c8f8658b9260d#128 && r.len == 126 && r.intpart == HPV.zero &&
        r.mixres == num
          1953080719899752227772775197400753342219517723855825553952811883716489030640931209684940844390468240
          (-100)) = true := by decide +kernel

theorem test_evaluate_v2_boundary :
    okIs (evaluate (latchConfig readyRef) (rom .full) 40713137) (fun r =>
      r.scaled == 0xb3849ce599f0b4523c328b8d6506d148#128 && r.len == 128) = true ∧
      evaluate (latchConfig readyRef) (rom .full) 40713138 = .error ⟨.arithmetic, 2#8, 0x026D3BB2#32⟩ := by
  decide +kernel

theorem test_evaluate_v2_legacy :
    okIs (evaluate (latchConfig readyRef) (rom .legacy) 1) (fun r =>
      r.mixres == num
        1953080716407056643566527547133739451872028020681569593098475601798189948295661188381579291415647810
        (-100)) = true := by decide +kernel

theorem test_evaluate_v1_round1 :
    okIs (evaluate (latchConfig readyV1) (rom .full) 1) (fun r =>
      r.mixres.s && r.intpart == ⟨true, 10 ^ 99, -99⟩ &&
        r.scaled == 0xd4867a55ae8a05bd521521740cb1af84#128 && r.len == 128) = true := by decide +kernel

theorem test_evaluate_v1_exponent_range :
    evaluate (latchConfig readyV1) (rom .full) 75656 = .error ⟨.arithmetic, 2#8, 0x00012788#32⟩ ∧
      evaluate (latchConfig readyV1) (rom .full) 75657 = .error ⟨.arithmetic, 1#8, 0x00012789#32⟩ ∧
      evaluate (latchConfig readyV1) (rom .full) 75680 = .error ⟨.arithmetic, 1#8, 0x000127A0#32⟩ := by
  decide +kernel

/-! ### The commands, one step each (95_test_vectors.md sections 6 and 7) -/

theorem test_nop_sets_no_pending_bit :
    nextIs (step (State.reset.withFetchWord 32 0x000)) (fun t =>
      t.state == .idle && t.irqStat == 0#2 && t.inFlight == none) = true := by decide +kernel

theorem test_init_starts :
    nextIs (step (State.reset.withFetchWord 32 0x001)) (fun t =>
      t.state == .ready && t.nextIdx == 1#32 && t.irqStat == 1#2 &&
        t.act == some ⟨100#8, 128#8, .v2, .full, .minimal, 150#16⟩) = true := by decide +kernel

theorem test_init_checks_precision_first :
    nextIs (exec .init (idleWith ⟨99#8, 0#8, .v2, .full, .minimal⟩ 150#16)) (fun t =>
      t.state == .error && errWord t == 0x00010001#32 && t.bank == none && t.irqStat == 2#2) = true ∧
      nextIs (exec .init (idleWith ⟨100#8, 129#8, .v2, .full, .minimal⟩ 150#16)) (fun t =>
        errWord t == 0x00010104#32) = true := by decide +kernel

theorem test_getc_rho_image :
    nextIs (exec (.getc .rho) readyRef) (fun t =>
      windowWord t 0x140 == 0x4000FF9D#32 && windowWord t 0x144 == 0x88CE6090#32 &&
        windowWord t 0x16C == 0x0000026C#32 && windowWord t 0x170 == 0#32) = true := by decide +kernel

theorem test_getc_in_idle :
    nextIs (step (State.reset.withFetchWord 32 0x002)) (fun t => errWord t == 0x00020006#32) = true := by
  decide +kernel

theorem test_eval_publishes :
    nextIs (exec .eval { readyRef with evalArg := 1#32 }) (fun t =>
      t.state == .ready && t.lastIdx == 1#32 && windowWord t 0x038 == 126#32 &&
        windowWord t 0x050 == 0x58B9260D#32 && windowWord t 0x05C == 0x31FFB5B5#32 &&
        windowWord t 0x080 == 0x4000FF9C#32 && t.bs == [] && t.nextIdx == 1#32) = true := by decide +kernel

theorem test_eval_of_minus_one :
    nextIs (exec .eval { readyRef with evalArg := 0xFFFFFFFF#32 }) (fun t =>
      t.state == .error && errWord t == 0x00030002#32 && t.errIdx == 0xFFFFFFFF#32 &&
        t.lastIdx == 0#32) = true := by decide +kernel

theorem test_step_appends :
    nextIs (exec .step readyRef) (fun t =>
      t.state == .ready && t.roundsDone == 1#32 && t.nextIdx == 2#32 && windowWord t 0x02C == 126#32 &&
        windowWord t 0x1000 == 0xC7FED6D7#32 && t.irqStat == 1#2) = true := by decide +kernel

theorem test_step_without_rounds :
    nextIs (exec .step (readyWith ConfigReg.reset 0#16)) (fun t => errWord t == 0x00040106#32) = true := by
  decide +kernel

theorem test_run_padded :
    nextIs (exec .run ready2) (fun t =>
      t.state == .done && t.bs == [false, false, true, false] && windowWord t 0x1000 == 0x20000000#32 &&
        t.hx == [2#4] && t.roundsDone == 2#32 && windowWord t 0x2000 == 0x20000000#32) = true := by
  decide +kernel

theorem test_run_stops_at_a_failing_round :
    nextIs (exec .run { readyV1 with roundsDone := 131#32, nextIdx := 132#32 }) (fun t =>
      t.state == .error && errWord t == 0x00050203#32 && t.errIdx == 132#32 && t.roundsDone == 131#32 &&
        t.hx == []) = true := by decide +kernel

theorem test_final_of_no_rounds :
    nextIs (exec .final (readyWith ConfigReg.reset 0#16)) (fun t =>
      t.state == .done && t.hx == [] && t.irqStat == 1#2) = true := by decide +kernel

theorem test_final_too_early :
    nextIs (exec .final readyRef) (fun t => errWord t == 0x00060106#32) = true := by decide +kernel

theorem test_clear_leaves_error :
    nextIs (exec .clear errorState) (fun t =>
      t.state == .idle && errWord t == 0#32 && t.irqStat == 3#2) = true := by decide +kernel

theorem test_illegal_word :
    nextIs (step (State.reset.withFetchWord 32 0x101)) (fun t =>
      errWord t == 0x00010305#32 && t.irqStat == 2#2) = true := by decide +kernel

theorem test_error_ignores_step :
    nextIs (exec .step errorState) (fun t =>
      statusWord t == 0x00000043#32 && errWord t == 0x00080105#32) = true := by decide +kernel

/-! ### The bus and reset -/

theorem test_lock_and_overrun :
    (performAccess (.write 4 (regOffset .config) 0#32) readyRef).wlock = true ∧
      (performAccess (.write 4 (regOffset .config) 0#32) readyRef).config = ConfigReg.reset ∧
      (performAccess (.write 4 (regOffset .cmd) 7#32) busyState).cmdOvr = true ∧
      (performAccess (.write 4 (regOffset .cmd) 7#32) busyState).inFlight = some 5#32 := by decide +kernel

theorem test_cmd_reads_zero_while_busy :
    (performAccess (.read 4 (regOffset .cmd)) busyState).response = some ⟨false, 0#32⟩ ∧
      (performAccess (.read 4 (regOffset .status)) busyState).response = some ⟨false, 9#32⟩ := by decide +kernel

theorem test_write_one_to_clear :
    irqOut { State.reset with irqEn := 3#2, irqStat := 1#2 } = true ∧
      irqOut (performAccess (.write 4 (regOffset .irqStat) 1#32) { State.reset with irqEn := 3#2, irqStat := 1#2 })
        = false := by decide +kernel

theorem test_bus_error :
    (performAccess (.read 1 0x000#14) State.reset).response = some ⟨true, 0#32⟩ ∧
      (performAccess (.read 4 0x000#14) State.reset).response = some ⟨false, 0x4F504301#32⟩ := by
  decide +kernel

theorem test_reset_from_busy :
    nextIs (step { busyState with inputs := [.rst] }) (fun t => t == State.reset) = true := by decide +kernel

/-! ### Renderings (42_generation.md R96 to R99) -/

theorem test_group16 :
    (group16 (List.replicate 33 'a')).length = 35 ∧ group16 [] = [] ∧
      group16 (List.replicate 16 'a') = List.replicate 16 'a' := by decide +kernel

theorem test_decimal_text :
    (decimalText one).take 4 = ['1', '.', '0', '0'] ∧ (decimalText one).length = 101 ∧
      decimalText HPV.zero = ['0'] ∧ (decimalText ⟨true, 25 * 10 ^ 98, -100⟩).take 5 = ['-', '0', '.', '2', '5'] := by
  decide +kernel

/-! ### Witnesses: states and operands that meet the hypotheses of each statement, at the boundaries of its
clauses. The name after `witness_` is the statement's. -/

theorem witness_DecodeChecksInOrder :
    (8 ≤ (0x00000008#32).toNat % 256) ∧
      ((0x00000807#32).toNat % 256 < 8 ∧ (0x00000807#32).toNat / 2048 ≠ 0) ∧
      ((0x00000101#32).toNat % 256 < 8 ∧ (0x00000101#32).toNat / 2048 = 0 ∧
        (0x00000101#32).toNat / 256 % 8 ≠ 0 ∧ (0x00000101#32).toNat % 256 ≠ 2) ∧
      ((0x00000702#32).toNat % 256 = 2 ∧ (0x00000702#32).toNat / 2048 = 0) := by decide

theorem witness_LegalWordsAreTheFifteen : legalWord 0x00000008#32 = false := by decide

theorem witness_ConfigReadsBackWhatWasStored :
    configOf (setcfgWord 255 255 1 1 1) = ⟨255#8, 255#8, .v1, .legacy, .fixed⟩ ∧
      configOf (setcfgWord 0 0 0 0 0) = ⟨0#8, 0#8, .v2, .full, .minimal⟩ := by decide

theorem witness_HpvImageHoldsTheTriple :
    HPV.zero.canonical = true ∧ HPV.canonical ⟨true, 10 ^ 100 - 1, 32767⟩ = true ∧
      HPV.canonical ⟨true, 10 ^ 99, -32768⟩ = true ∧
      ((hpvWord (some ⟨true, 10 ^ 99, -32768⟩) 0).extractLsb' 0 16).toInt = -32768 := by decide +kernel

theorem witness_BsbufShowsTheBitstream :
    (windowWord { State.reset with bs := [true, false, true] } 0x1000).getLsbD 31 = true ∧
      (windowWord { State.reset with bs := [true, false, true] } 0x1000).getLsbD 30 = false ∧
      (windowWord { State.reset with bs := [true, false, true] } (0x1000 + 4 * (32767 / 32))).getLsbD 0
        = false := by decide +kernel

theorem witness_HexbufShowsTheDigits :
    windowWord { State.reset with hx := [1#4, 13#4] } 0x2000 = 0x1D000000#32 ∧
      windowWord { State.reset with hx := [1#4, 13#4] } (0x2000 + 4 * (8191 / 8)) = 0#32 := by decide +kernel

theorem witness_IrqIsLevelOfEnabledPendingBits :
    irqOut { State.reset with irqEn := 2#2, irqStat := 2#2 } = true ∧
      (writeReg .irqStat 2#32 { State.reset with irqStat := 3#2 }).irqStat = 1#2 := by decide

theorem witness_OnlyAlignedWordAccessesAreAdmitted :
    ((Access.read 4 0x3FFC#14).size = 4 ∧ (Access.read 4 0x3FFC#14).off.toNat % 4 = 0) ∧
      ¬ ((Access.read 4 0x3FFE#14).size = 4 ∧ (Access.read 4 0x3FFE#14).off.toNat % 4 = 0) ∧
      ¬ ((Access.write 2 0x008#14 0#32).size = 4 ∧ (Access.write 2 0x008#14 0#32).off.toNat % 4 = 0) := by
  decide

theorem witness_WriteAcceptance :
    State.reset.inFlight.isSome = false ∧ State.reset.state = .idle ∧ busyState.inFlight.isSome = true ∧
      readyRef.state ≠ .idle ∧ errorState.state = .error ∧ errorState.inFlight = none ∧
      (0x3FFC#14).toNat % 4 = 0 ∧
      0x3FFC#14 ∉ [0x008#14, 0x00C#14, 0x010#14, 0x014#14, 0x03C#14, 0x040#14] := by decide

theorem witness_ReadsWhileBusyAreFree :
    busyState.inFlight ≠ none ∧ State.reset.inFlight = none ∧ regAt (0x2FFC#14).toNat ≠ .reserved ∧
      regAt (0x008#14).toNat ≠ .reserved ∧
      0x014#14 ∈ [0x000#14, 0x004#14, 0x014#14, 0x018#14, 0x03C#14, 0x040#14] ∧
      0x2FFC#14 ∉ [0x000#14, 0x004#14, 0x014#14, 0x018#14, 0x03C#14, 0x040#14] := by decide

theorem witness_ReservedOffsetsReadZero :
    (0x044 ≤ (0x044#14).toNat ∧ (0x04C#14).toNat < 0x050) ∧
      (0x060 ≤ (0x060#14).toNat ∧ (0x07C#14).toNat < 0x080) ∧
      (0x180 ≤ (0x180#14).toNat ∧ (0xFFC#14).toNat < 0x1000) ∧ 0x3000 ≤ (0x3000#14).toNat := by decide

theorem witness_BusyAccessesLeaveTheRunAlone : busyState.inFlight ≠ none := by decide

theorem witness_ResetLeavesTheTable :
    ({ busyState with inputs := [.rst, .complete] } : State).inputs = .rst :: [.complete] := rfl

theorem witness_RoundPIsHalfEvenTo100Digits :
    ((1 : ℚ) / 3 ≠ 0) ∧
      roundP (1 / 3) = .ok (num
        3333333333333333333333333333333333333333333333333333333333333333333333333333333333333333333333333333
        (-100)) ∧
      HPV.canonical ⟨true, 10 ^ 99, 32767⟩ = true ∧
      roundP (HPV.toRat ⟨true, 10 ^ 99, 32767⟩) = .ok ⟨true, 10 ^ 99, 32767⟩ := by decide +kernel

theorem witness_FloorIsExact :
    HPV.canonical ⟨true, 95 * 10 ^ 98, -99⟩ = true ∧ HPV.toRat ⟨true, 95 * 10 ^ 98, -99⟩ < 0 := by
  decide +kernel

theorem witness_FracIsCheckedFractionalPart :
    ((num (15 * 10 ^ 98) (-38)).canonical = true ∧ (num (15 * 10 ^ 98) (-38)).toRat ≠ 0 ∧
        100 - 1 - ((num (15 * 10 ^ 98) (-38)).e + 100 - 1) < (qmin 128 : Int)) ∧
      ((num (15 * 10 ^ 98) (-39)).canonical = true ∧
        ¬ 100 - 1 - ((num (15 * 10 ^ 98) (-39)).e + 100 - 1) < (qmin 128 : Int)) ∧
      (HPV.canonical ⟨true, 10 ^ 99, -249⟩ = true ∧ ¬ 100 - 1 - ((-249 : Int) + 100 - 1) < (qmin 128 : Int)) := by decide +kernel

theorem witness_ScaleIsExactFloor :
    (0 ≤ HPV.zero.toRat ∧ HPV.zero.toRat < 1) ∧
      (0 ≤ (num (10 ^ 100 - 1) (-100)).toRat ∧ (num (10 ^ 100 - 1) (-100)).toRat < 1) := by decide +kernel

theorem witness_ExpEnclosureContainsExp :
    one.canonical = true ∧ million.canonical = true ∧ (-1 : ℚ) < 0 := by decide +kernel

theorem witness_LnEnclosureContainsLog :
    (0 : ℚ) < 2 ∧ HPV.canonical (num (10 ^ 99) (-32768)) = true ∧ 0 < (num (10 ^ 99) (-32768)).toRat ∧
      one.canonical = true ∧ 0 < one.toRat := by decide +kernel

theorem witness_DecidedRoundingIsNearest :
    ((((⟨1, 1⟩ : Enclosure).lo : ℝ) ≤ 1 ∧ (1 : ℝ) ≤ (⟨1, 1⟩ : Enclosure).hi) ∧ settle ⟨1, 1⟩ = some one) ∧
      ((∀ d ∈ [140], (((fun _ => ⟨1, 1⟩ : Nat → Enclosure) d).lo : ℝ) ≤ 1 ∧
        (1 : ℝ) ≤ ((fun _ => ⟨1, 1⟩ : Nat → Enclosure) d).hi) ∧ ziv (fun _ => ⟨1, 1⟩) [140] = some one) ∧
      (IsRounding 0 HPV.zero ∧ (∃ v, IsRounding (1 / 3) v) ∧ one.canonical = true) :=
  ⟨⟨by simp, by decide +kernel⟩, ⟨by simp, by decide +kernel⟩, Or.inl ⟨rfl, rfl⟩, exists_isRounding _,
    by decide +kernel⟩

theorem witness_ElementaryCornerCases :
    (HPV.zero.canonical = true ∧ HPV.zero.toRat ≤ 0) ∧
      (HPV.canonical ⟨true, 10 ^ 99, -99⟩ = true ∧ HPV.toRat ⟨true, 10 ^ 99, -99⟩ ≤ 0) ∧
      (one.canonical = true ∧ one.toRat = 1) ∧
      (million.canonical = true ∧ 1000000 ≤ |million.toRat| ∧ 0 < million.toRat) ∧
      (HPV.canonical ⟨true, 10 ^ 99, -93⟩ = true ∧ 1000000 ≤ |HPV.toRat ⟨true, 10 ^ 99, -93⟩| ∧
        HPV.toRat ⟨true, 10 ^ 99, -93⟩ < 0) := by decide +kernel

theorem witness_MixV1IsTheSevenTermProduct :
    (75680 : Int) ≤ 75680 ∧ (75680 : Int) ≤ 2147483647 ∧ (1 : Int) ≤ 1 ∧
      okIs (mixV1 128 (rom .full) 1) (fun _ => true) = true ∧
      mixV1 128 (rom .full) 75680 = .error .expRange := by decide +kernel

theorem witness_WeylResultsAreFractions :
    okIs (mixV2 128 (rom .full) 1) (fun _ => true) = true ∧
      mixV2 128 (rom .full) 2147483647 = .error .precisionLoss := by decide +kernel

theorem witness_RomConstantsAreNearest : ∃ x : ℝ, x ^ 3 = x + 1 := by
  have hc : ContinuousOn (fun x : ℝ => x ^ 3 - x - 1) (Set.Icc 1 2) := by fun_prop
  obtain ⟨x, -, hx⟩ := intermediate_value_Icc (by norm_num : (1 : ℝ) ≤ 2) hc
    (show (0 : ℝ) ∈ Set.Icc _ _ by constructor <;> norm_num)
  exact ⟨x, by linarith [show x ^ 3 - x - 1 = 0 from hx]⟩

theorem witness_EvaluationIsMixThenExtract :
    (latchConfig readyRef).mix = .v2 ∧ (latchConfig readyV1).mix = .v1 ∧
    ({ latchConfig readyRef with p := 99#8 } : ActiveConfig).p ≠ 100#8 ∧
      (latchConfig readyRef).p = 100#8 ∧
      mix (latchConfig readyRef) (rom .full) 2147483647 = .error .precisionLoss ∧
      okIs (mix (latchConfig readyV1) (rom .full) 132) (fun r =>
        hpFrac 128 r == .error .precisionLoss) = true ∧
      okIs (mix (latchConfig readyRef) (rom .full) 1) (fun r =>
        okIs (hpFrac 128 r) (fun _ => true)) = true := by decide +kernel

theorem witness_PublishedPartsAddUp :
    1 ≤ (latchConfig readyRef).b.toNat ∧ (latchConfig readyRef).b.toNat ≤ 128 ∧
      okIs (evaluate (latchConfig readyRef) (rom .full) 1) (fun r => r.mixres.canonical) = true := by
  decide +kernel

theorem witness_DigitStringIsTheBinaryRendering :
    (2 ^ 128 - 1 : Nat) < 2 ^ 128 ∧ (1 : Nat) < 2 ^ 1 ∧ (3#128).toNat < 2 ^ 2 ∧
      digitString (lenOf .minimal 2 1) 1#128 = [true] ∧ digitString (lenOf .fixed 2 1) 1#128 = [false, true] := by
  decide +kernel

theorem witness_AggregateIsTheHexadecimalInteger :
    (aggregate State.reset).hx = [] ∧ (aggregate { State.reset with bs := [false, false] }).hx = [0#4] ∧
      (aggregate { State.reset with bs := [false, false, true, true, false] }).hx = [6#4] ∧
      (List.replicate 32768 false).length ≤ 32768 :=
  ⟨by decide, by decide +kernel, by decide +kernel, by rw [List.length_replicate]⟩

theorem witness_StreamLengthLaws :
    1 ≤ (latchConfig ready2).b.toNat ∧ (latchConfig ready2).pad = .fixed ∧
      streamOf (latchConfig ready2) (rom .full) 2 = some [false, false, true, false] ∧
      streamOf { latchConfig ready2 with pad := .minimal } (rom .full) 2 = some [false, true, false] := by
  decide +kernel

theorem witness_InitStartsARun :
    (idleWith ⟨100#8, 1#8, .v1, .legacy, .fixed⟩ 0#16).state = .idle ∧ 1 ≤ (1#8).toNat ∧ (128#8).toNat ≤ 128 ∧
      State.reset.config.prec = 100#8 ∧ State.reset.config.bits = 128#8 := by decide

theorem witness_InitRefusesBadConfiguration :
    (idleWith ⟨99#8, 128#8, .v2, .full, .minimal⟩ 150#16).config.prec ≠ 100#8 ∧
      (idleWith ⟨100#8, 0#8, .v2, .full, .minimal⟩ 150#16).config.bits.toNat < 1 ∧
      128 < (idleWith ⟨100#8, 129#8, .v2, .full, .minimal⟩ 150#16).config.bits.toNat ∧
      (idleWith ⟨100#8, 129#8, .v2, .full, .minimal⟩ 150#16).state = .idle := by decide

theorem witness_GetcCopiesTheConstant :
    readyRef.state = .ready ∧ readyRef.bank = some (rom .full) ∧ done0.state = .done ∧
      done0.bank = some (rom .full) := by decide +kernel

theorem witness_EvalPublishesOneIndex :
    ready2.state = .ready ∧ ready2.act = some (latchConfig ready2) ∧ ready2.bank = some (rom .full) ∧
      okIs (evaluate (latchConfig ready2) (rom .full) (1#32 : Word).toInt) (fun _ => true) = true := by
  decide +kernel

theorem witness_FailingEvalPublishesNothing :
    done0.state = .done ∧ done0.act = some (latchConfig done0) ∧ done0.bank = some (rom .full) ∧
      (latchConfig done0).p = 100#8 ∧ (0#32 : Word).toInt ≤ 0 ∧ (0x80000000#32 : Word).toInt ≤ 0 ∧
      evaluate (latchConfig done0) (rom .full) (0x7FFFFFFF#32 : Word).toInt
        = .error ⟨.arithmetic, ArithError.precisionLoss.detail, 0x7FFFFFFF#32⟩ := by decide +kernel

theorem witness_StepAppendsOneRound :
    ready2.state = .ready ∧ ready2.act = some (latchConfig ready2) ∧ ready2.bank = some (rom .full) ∧
      ready2.roundsDone.toNat < (latchConfig ready2).rc.toNat ∧
      okIs (evaluate (latchConfig ready2) (rom .full) (ready2.nextIdx.toNat : ℤ)) (fun r =>
        decide (ready2.bs.length + r.len ≤ 32768)) = true := by decide +kernel

/-- READY with `k` bits in the bitstream already. -/
def filled (k : Nat) : State := { ready2 with bs := List.replicate k false }

theorem filled_length (k : Nat) : (filled k).bs.length = k := List.length_replicate

theorem ready2_round1 : ∃ r, evaluate (latchConfig ready2) (rom .full) 1 = .ok r ∧ r.len = 2 := by
  have h : okIs (evaluate (latchConfig ready2) (rom .full) 1) (fun r => r.len == 2) = true := by decide +kernel
  cases hr : evaluate (latchConfig ready2) (rom .full) 1 with
  | ok r => rw [hr] at h; exact ⟨r, rfl, by simpa [okIs] using h⟩
  | error e => rw [hr] at h; cases h

theorem witness_FailingStepKeepsCounters :
    (latchConfig done0).rc.toNat ≤ (0#32 : Word).toNat ∧
      evaluate (latchConfig readyRef) (rom .full) ((0x7FFFFFFF#32 : Word).toNat : ℤ)
        = .error ⟨.arithmetic, 2#8, 0x7FFFFFFF#32⟩ ∧
      ((filled 32767).state = .ready ∧ (filled 32767).roundsDone.toNat < (latchConfig ready2).rc.toNat ∧
        ∃ r, evaluate (latchConfig ready2) (rom .full) ((filled 32767).nextIdx.toNat : ℤ) = .ok r ∧
          32768 < (filled 32767).bs.length + r.len) := by
  refine ⟨by decide, by decide +kernel, rfl, by decide, ?_⟩
  obtain ⟨r, h, hl⟩ := ready2_round1
  exact ⟨r, h, by rw [hl, filled_length]; decide⟩

theorem ready2_inv : Inv ready2 := by
  refine ⟨⟨⟨rfl, by decide, rfl⟩, ⟨rfl, rfl, rfl, rfl⟩, ⟨rfl, by decide, rfl⟩, rfl⟩, rfl, Or.inl ?_, Or.inl rfl,
    fun h => by cases h⟩
  exact ⟨rfl, rfl, rfl, rfl, rfl, rfl⟩

theorem witness_RunGeneratesTheWholeStream :
    Inv ready2 ∧ ready2.state = .ready ∧
      streamOf (latchConfig ready2) (rom ready2.config.cmode) ready2.roundCount.toNat
        = some [false, false, true, false] ∧ ready2.roundsDone.toNat < ready2.roundCount.toNat :=
  ⟨ready2_inv, rfl, by decide +kernel, by decide⟩

theorem witness_RunGeneratesTheWholeStream_without_rounds :
    Inv (readyWith cfg2 0#16) ∧ (readyWith cfg2 0#16).roundsDone.toNat = (readyWith cfg2 0#16).roundCount.toNat ∧
      streamOf (latchConfig (readyWith cfg2 0#16)) (rom .full) 0 = some [] := by
  refine ⟨⟨⟨⟨rfl, by decide, rfl⟩, ⟨rfl, rfl, rfl, rfl⟩, ⟨rfl, by decide, rfl⟩, rfl⟩, rfl, Or.inl ?_, Or.inl rfl,
    fun h => by cases h⟩, rfl, rfl⟩
  exact ⟨rfl, rfl, rfl, rfl, rfl, rfl⟩

/-- The states of `ready2` after 0, 1 and 2 `STEP`s. -/
def chain2 : Nat → State
  | 0 => ready2
  | 1 => nextOr ready2 (exec .step ready2)
  | _ => nextOr ready2 (exec .step (nextOr ready2 (exec .step ready2)))

theorem nextOr_eq {s : State} {r : Result} {p : State → Bool} (h : nextIs r p = true) :
    r = .next (nextOr s r) ∧ p (nextOr s r) = true := by
  cases r with
  | next t => exact ⟨rfl, h⟩
  | fault f => cases h
  | refused f => cases h

theorem witness_RunIsRepeatedStep :
    chain2 0 = ready2 ∧
      (exec .step (chain2 0) = .next (chain2 1) ∧ ((chain2 1).state == .ready) = true) ∧
      (exec .step (chain2 1) = .next (chain2 2) ∧
        ((chain2 2).state == .ready && decide ((latchConfig ready2).rc.toNat ≤ (chain2 2).roundsDone.toNat))
          = true) :=
  ⟨rfl, nextOr_eq (s := ready2) (p := fun t => t.state == .ready) (by decide +kernel),
    nextOr_eq (s := ready2) (p := fun t => t.state == .ready && decide ((latchConfig ready2).rc.toNat ≤ t.roundsDone.toNat))
      (by decide +kernel)⟩

theorem witness_RunIsRepeatedStep_failing :
    (filled 32767).state = .ready ∧ (filled 32767).roundsDone.toNat < (latchConfig ready2).rc.toNat ∧
      ∃ e, exec .step (filled 32767) = .next e ∧ e.state = .error := by
  refine ⟨rfl, by decide, ?_⟩
  obtain ⟨r, h, hl⟩ := ready2_round1
  have h' : evaluate (latchConfig ready2) (rom .full) (roundIndex (filled 32767)) = .ok r := h
  have ho : oneRound (latchConfig ready2) (rom .full) (filled 32767)
      = .error ⟨.bitstreamOverflow, 0#8, BitVec.ofInt 32 (roundIndex (filled 32767))⟩ := by
    simp only [oneRound, h']
    rw [if_pos]
    rw [hl, filled_length]; decide
  have hr : stepRule (latchConfig ready2) (rom .full) (filled 32767)
      = .error (⟨.bitstreamOverflow, 0#8, BitVec.ofInt 32 (roundIndex (filled 32767))⟩, filled 32767) := by
    simp only [stepRule, runRounds, ho]
    rfl
  refine ⟨enterError ⟨.bitstreamOverflow, 0#8, BitVec.ofInt 32 (roundIndex (filled 32767))⟩ (opcOf .step)
    (filled 32767), ?_, rfl⟩
  show Host.Outcome.next (finishCommand .step (stepRule (latchConfig ready2) (rom .full) (filled 32767))) = _
  rw [hr]
  rfl

theorem witness_FinalAggregatesAfterAllRounds :
    ((readyWith cfg2 0#16).state = .ready ∧ (readyWith cfg2 0#16).roundsDone.toNat = (0#16).toNat) ∧
      (ready2.act = some (latchConfig ready2) ∧ ready2.roundsDone.toNat ≠ (latchConfig ready2).rc.toNat) := by
  decide +kernel

theorem witness_WindowFrameOfEveryCommand :
    nextIs (exec .final (readyWith cfg2 0#16)) (fun t => t.state != .error) = true ∧
      mayChange .final (regAt 0x008) = false ∧ mayChange .final (regAt 0x1FFF) = false ∧
      nextIs (exec .final ready2) (fun t => t.state == .error) = true ∧
      mayChangeOnError .final (regAt 0x17F) = false := by decide +kernel

theorem witness_RefusedCommandsRaise :
    ready2.state = .ready ∧ done0.state = .done ∧ State.reset.state = .idle ∧ decode 8#32 = .illegal 1#8 := by
  decide

theorem witness_ErrorStateIgnoresCommands :
    errorState.state = .error ∧ Instr.run ≠ .nop ∧ Instr.run ≠ .clear ∧ decode 0x807#32 = .illegal 2#8 := by
  decide

theorem witness_OnlyClearOrResetLeavesError :
    nextIs (step { errorState with inFlight := some 7#32 }) (fun t => t.state == .idle) = true ∧
      nextIs (step { errorState with inputs := [.rst] }) (fun t => t.state == .idle) = true ∧
      nextIs (step { errorState with inputs := [.bus (.write 4 0x014#14 5#32)] }) (fun t =>
        t.state == .error && t.cmdIgn) = true := by decide +kernel

theorem witness_ConfigurationIsLockedDuringARun :
    ready2.state ≠ .idle ∧
      nextIs (step { ready2 with inputs := [.bus (.write 4 0x008#14 0#32)] }) (fun t =>
        t.state == .ready && t.wlock) = true := by decide +kernel

theorem witness_EvaluationDependsOnlyOnIndexAndSession :
    ({ ready2 with evalArg := 1#32 } : State).act = (chain2 1).act ∧ ready2.bank = (chain2 1).bank ∧
      nextIs (exec .eval { chain2 1 with evalArg := 1#32 }) (fun t => t.state == .ready) = true ∧
      nextIs (exec .eval { ready2 with evalArg := 1#32 }) (fun t => t.state == .ready) = true ∧
      nextIs (exec .eval ready2) (fun t => t.state == .error) = true := by decide +kernel

theorem witness_StepRunsTheDecodedCommand :
    busyState.inFlight = some 5#32 ∧ decode 5#32 = .command .run ∧ busyState.inputs = [] ∧
      ({ busyState with inputs := [.complete, .rst] } : State).inputs = .complete :: [.rst] := by decide

theorem witness_EveryStepKeepsTheInvariant :
    Inv ready2 ∧ step { ready2 with inputs := [] } = .next ready2 := ⟨ready2_inv, rfl⟩

theorem witness_SoundStatesNeverStop : Inv ready2 := ready2_inv

/-- Reset with `INIT` written and its time over. -/
def bootInputs : List Input := [hostCmd .init, .complete]

theorem witness_ReachableBitstreamIsTheRounds : ∃ s, Reachable s ∧ s.state = .ready :=
  ⟨_, Reachable.next (Reachable.next (Reachable.start bootInputs) rfl) rfl, rfl⟩

theorem witness_ReachableBitstreamIsTheRounds_done : ∃ s, Reachable s ∧ s.state = .done :=
  ⟨_, Reachable.next (Reachable.next (Reachable.next (Reachable.next (Reachable.next
    (Reachable.start (hostWr .roundCount 0#32 :: bootInputs ++ [hostCmd .final, .complete])) rfl) rfl) rfl)
    rfl) rfl, rfl⟩

theorem busyState_inv : Inv busyState := by
  refine ⟨⟨⟨rfl, by decide, rfl⟩, ⟨rfl, rfl, rfl, rfl⟩, ⟨rfl, by decide, rfl⟩, rfl⟩, rfl, Or.inl ?_, Or.inl rfl,
    fun h => by cases h⟩
  exact ⟨rfl, rfl, rfl, rfl, rfl, rfl⟩

theorem witness_IdleEngineHoldsAndBusyEngineCompletes :
    (State.reset.inputs = [] ∧ State.reset.inFlight = none) ∧
      (Inv busyState ∧ busyState.inputs = [] ∧ busyState.inFlight ≠ none) :=
  ⟨⟨rfl, rfl⟩, busyState_inv, rfl, by decide⟩

end Sys2Proof.Tests
end

