-- ==== Sys2Proof/Proofs/Window.lean ====
section
/-! PROOF. The images of the register window (10_state.md R23 to R27): the HPV registers and the two buffers. -/

namespace Sys2Proof.Machine

/-! ### Where a register stands -/

/-- The four HPV registers are 16 words each, one after the other (10_state.md R23, R24). -/
theorem regAt_hpv {i : Nat} (h : i < 16) :
    regAt (0x080 + 4 * i) = .mixres i ∧ regAt (0x0C0 + 4 * i) = .intpart i ∧
      regAt (0x100 + 4 * i) = .fracp i ∧ regAt (0x140 + 4 * i) = .cval i := by
  simp (disch := omega) only [regAt, if_neg, if_pos, Reg.mixres.injEq, Reg.intpart.injEq,
    Reg.fracp.injEq, Reg.cval.injEq]
  omega

/-- The two buffers are 1024 words each (10_state.md R26, R27). -/
theorem regAt_buffers {w : Nat} (h : w < 1024) :
    regAt (0x1000 + 4 * w) = .bsbuf w ∧ regAt (0x2000 + 4 * w) = .hexbuf w := by
  simp (disch := omega) only [regAt, if_neg, if_pos, Reg.bsbuf.injEq, Reg.hexbuf.injEq]
  omega

/-- What the words of the four HPV registers read. -/
theorem windowWord_hpv (s : State) {i : Nat} (h : i < 16) :
    windowWord s (0x080 + 4 * i) = hpvWord s.mixres i ∧ windowWord s (0x0C0 + 4 * i) = hpvWord s.intpart i ∧
      windowWord s (0x100 + 4 * i) = hpvWord s.fracp i ∧ windowWord s (0x140 + 4 * i) = hpvWord s.cval i := by
  obtain ⟨hmixres, hintpart, hfracp, hcval⟩ := regAt_hpv h
  simp only [windowWord, hmixres, hintpart, hfracp, hcval, readReg, and_self]

/-- What a word of the `BSBUF` window reads. -/
theorem windowWord_bsbuf (s : State) {w : Nat} (h : w < 1024) :
    windowWord s (0x1000 + 4 * w) = bsWord s.bs w := by
  rw [windowWord, (regAt_buffers h).1, readReg]

/-- What a word of the `HEXBUF` window reads. -/
theorem windowWord_hexbuf (s : State) {w : Nat} (h : w < 1024) :
    windowWord s (0x2000 + 4 * w) = hexWord s.hx w := by
  rw [windowWord, (regAt_buffers h).2, readReg]

/-! ### Positional notation

Both buffers show a word as the value of its digits, the first digit most significant. -/

/-- The value of digits in base `b`, written most significant first, is that of the reversed list. -/
theorem foldl_eq_ofDigits_reverse (b : Nat) (l : List Nat) :
    l.foldl (fun v x => b * v + x) 0 = Nat.ofDigits b l.reverse := by
  simp [Nat.ofDigits_eq_foldr, add_comm]

/-- The digit `i` places above the last one. -/
theorem ofDigits_digit {b : Nat} {l : List Nat} (hl : ∀ x ∈ l, x < b) {i : Nat} (hi : i < l.length) :
    Nat.ofDigits b l / b ^ i % b = l[i] := by
  have hlt := hl _ (l.getElem_mem hi)
  rw [Nat.ofDigits_div_pow_eq_ofDigits_drop i (by omega) l hl, List.drop_eq_getElem_cons hi,
    Nat.ofDigits_cons, Nat.add_mul_mod_self_left, Nat.mod_eq_of_lt hlt]

/-- Digit `k` of `n` written digits stands `n - 1 - k` places above the last one. -/
theorem foldl_range_digit {b n : Nat} {f : Nat → Nat} (hf : ∀ k, f k < b) {k : Nat} (hk : k < n) :
    ((List.range n).map f).foldl (fun v x => b * v + x) 0 / b ^ (n - 1 - k) % b = f k := by
  rw [foldl_eq_ofDigits_reverse, ofDigits_digit (by simp [hf]) (by simp; omega)]
  have hplace : n - 1 - (n - 1 - k) = k := by omega
  simp [hplace]

/-- `n` digits in base `b` denote less than `b ^ n`. -/
theorem foldl_range_lt {b n : Nat} (hb : 1 < b) {f : Nat → Nat} (hf : ∀ k, f k < b) :
    ((List.range n).map f).foldl (fun v x => b * v + x) 0 < b ^ n := by
  simpa [foldl_eq_ofDigits_reverse] using
    Nat.ofDigits_lt_base_pow_length (l := ((List.range n).map f).reverse) hb (by simp [hf])

/-! ### The two buffers -/

/-- Bit `31 - b` of a word of `BSBUF` is its bit `b` of the stream, in the order of R26. -/
theorem bsWord_getLsbD (bits : List Bool) (w : Nat) {b : Nat} (hb : b < 32) :
    (bsWord bits w).getLsbD (31 - b) = bits.getD (32 * w + b) false := by
  have hdigit := foldl_range_digit (f := fun k => (bits.getD (32 * w + k) false).toNat)
    (fun _ => Bool.toNat_lt _) hb
  have hvalue : bitsValue ((List.range 32).map fun k => bits.getD (32 * w + k) false)
      = ((List.range 32).map fun k => (bits.getD (32 * w + k) false).toNat).foldl
          (fun v x => 2 * v + x) 0 := by
    simp only [bitsValue, List.foldl_map]
  rw [bsWord, hvalue, BitVec.getLsbD_ofNat, Nat.testBit_eq_decide_div_mod_eq, hdigit,
    decide_eq_true (show 31 - b < 32 by omega)]
  cases bits.getD (32 * w + b) false <;> rfl

/-- The four bits of digit `d` of a word of `HEXBUF`, in the order of R27. -/
theorem hexWord_extractLsb' (digits : List (BitVec 4)) (w : Nat) {d : Nat} (hd : d < 8) :
    (hexWord digits w).extractLsb' (28 - 4 * d) 4 = digits.getD (8 * w + d) 0#4 := by
  have hlt : ∀ k, (digits.getD (8 * w + k) 0#4).toNat < 16 := fun _ => BitVec.isLt _
  have hdigit := foldl_range_digit hlt hd
  have hvalue := foldl_range_lt (n := 8) (by decide) hlt
  have hpow : 2 ^ (28 - 4 * d) = 16 ^ (8 - 1 - d) := by
    rw [show 28 - 4 * d = 4 * (8 - 1 - d) by omega, pow_mul]; rfl
  apply BitVec.eq_of_toNat_eq
  rw [BitVec.extractLsb'_toNat, hexWord, BitVec.toNat_ofNat,
    Nat.mod_eq_of_lt (b := 2 ^ 32) hvalue, Nat.shiftRight_eq_div_pow, hpow]
  exact hdigit

/-- Settles O7: the word of position `j` is word `j / 32` of the window, and it shows digit `j mod 32`. -/
theorem bsbufShowsTheBitstream : Obligations.BsbufShowsTheBitstream := by
  intro s j hj
  rw [windowWord_bsbuf s (by omega), bsWord_getLsbD _ _ (Nat.mod_lt _ (by decide)), Nat.div_add_mod]

/-- Settles O8: the word of digit `d` is word `d / 8` of the window, and it shows digit `d mod 8`. -/
theorem hexbufShowsTheDigits : Obligations.HexbufShowsTheDigits := by
  intro s d hd
  rw [windowWord_hexbuf s (by omega), hexWord_extractLsb' _ _ (Nat.mod_lt _ (by decide)),
    Nat.div_add_mod]

/-! ### The image of a high-precision value -/

/-- What canonical form says of the range of the exponent and of the coefficient
(40_numerics.md R50, R51). -/
theorem canonical_bounds {v : HPV} (h : v.canonical = true) :
    -32768 ≤ v.e ∧ v.e ≤ 32767 ∧ v.c < 10 ^ 100 := by
  simp only [HPV.canonical, Bool.or_eq_true, Bool.and_eq_true, decide_eq_true_eq, beq_iff_eq] at h
  rcases h with rfl | ⟨⟨⟨-, hc⟩, hmin⟩, hmax⟩
  · decide
  · exact ⟨hmin, hmax, hc⟩

/-- The header word of an HPV register (10_state.md R23). -/
theorem hpvWord_header (v : HPV) :
    hpvWord (some v) 0 = BitVec.ofBool v.s ++ 1#1 ++ 0#14 ++ BitVec.ofInt 16 v.e := rfl

/-- Word `1 + i` of an HPV register is digit `i` of the coefficient in base `2 ^ 32`. -/
theorem hpvWord_coefficient (v : HPV) {i : Nat} (h : i < 11) :
    hpvWord (some v) (1 + i) = BitVec.ofNat 32 (v.c / (2 ^ 32) ^ i) := by
  rw [hpvWord, if_neg (by omega), if_pos (by omega), Nat.add_sub_cancel_left, pow_mul]

theorem hpvWord_of_ge (v : HPV) {i : Nat} (h : 12 ≤ i) : hpvWord (some v) i = 0#32 := by
  rw [hpvWord, if_neg (by omega), if_neg (by omega)]

theorem hpvWord_header_exponent {v : HPV} (h : v.canonical = true) :
    ((hpvWord (some v) 0).extractLsb' 0 16).toInt = v.e := by
  obtain ⟨hmin, hmax, -⟩ := canonical_bounds h
  have hfield : (hpvWord (some v) 0).extractLsb' 0 16 = BitVec.ofInt 16 v.e := by
    rw [hpvWord_header, BitVec.extractLsb'_append_eq_right]
  rw [hfield, BitVec.toInt_ofInt_eq_self (by decide) (by simpa using hmin) (by simp; omega)]

theorem hpvWord_header_reserved (v : HPV) : (hpvWord (some v) 0).extractLsb' 16 14 = 0#14 := by
  rw [hpvWord_header, BitVec.extractLsb'_append_eq_of_le (by decide), BitVec.extractLsb'_append_eq_right]

theorem hpvWord_header_valid (v : HPV) : (hpvWord (some v) 0).getLsbD 30 = true := by
  rw [hpvWord_header, BitVec.getLsbD_append, BitVec.getLsbD_append, BitVec.getLsbD_append]
  simp

theorem hpvWord_header_sign (v : HPV) : (hpvWord (some v) 0).getLsbD 31 = v.s := by
  rw [hpvWord_header, BitVec.getLsbD_append, BitVec.getLsbD_append, BitVec.getLsbD_append]
  simp

/-- The `n` lowest digits of `c` in base `b` denote `c mod b ^ n`. -/
theorem sum_digits_eq_mod (b c : Nat) (n : Nat) :
    ∑ i ∈ Finset.range n, c / b ^ i % b * b ^ i = c % b ^ n := by
  induction n with
  | zero => simp [Nat.mod_one]
  | succ n ih => rw [Finset.sum_range_succ, ih, Nat.mod_pow_succ, Nat.mul_comm (b ^ n)]

theorem sum_hpvWord {v : HPV} (h : v.canonical = true) :
    ∑ i ∈ Finset.range 11, (hpvWord (some v) (1 + i)).toNat * 2 ^ (32 * i) = v.c := by
  obtain ⟨-, -, hc⟩ := canonical_bounds h
  calc ∑ i ∈ Finset.range 11, (hpvWord (some v) (1 + i)).toNat * 2 ^ (32 * i)
      = ∑ i ∈ Finset.range 11, v.c / (2 ^ 32) ^ i % 2 ^ 32 * (2 ^ 32) ^ i := by
        refine Finset.sum_congr rfl fun i hi => ?_
        rw [hpvWord_coefficient v (Finset.mem_range.mp hi), BitVec.toNat_ofNat, pow_mul]
    _ = v.c % (2 ^ 32) ^ 11 := sum_digits_eq_mod _ _ _
    _ = v.c := Nat.mod_eq_of_lt (hc.trans (by norm_num))

theorem hpvWord_eleven_lt {v : HPV} (h : v.canonical = true) :
    (hpvWord (some v) 11).toNat < 2 ^ 13 := by
  obtain ⟨-, -, hc⟩ := canonical_bounds h
  rw [hpvWord_coefficient v (i := 10) (by decide), BitVec.toNat_ofNat]
  refine (Nat.mod_le _ _).trans_lt (Nat.div_lt_of_lt_mul (hc.trans (by norm_num)))

/-- The header gives the sign and the exponent back, and the coefficient words the coefficient. -/
theorem hpv_eq_of_words {u v : HPV} (hu : u.canonical = true) (hv : v.canonical = true)
    (h : ∀ i : Nat, i < 16 → hpvWord (some u) i = hpvWord (some v) i) : u = v := by
  have hs : u.s = v.s := by rw [← hpvWord_header_sign u, h 0 (by decide), hpvWord_header_sign]
  have he : u.e = v.e := by
    rw [← hpvWord_header_exponent hu, h 0 (by decide), hpvWord_header_exponent hv]
  have hc : u.c = v.c := by
    rw [← sum_hpvWord hu, ← sum_hpvWord hv]
    refine Finset.sum_congr rfl fun i hi => ?_
    rw [h (1 + i) (by have := Finset.mem_range.mp hi; omega)]
  cases u; cases v
  rw [HPV.mk.injEq]
  exact ⟨hs, hc, he⟩

/-- Settles O6, field by field; uniqueness reads the fields back from the words. -/
theorem hpvImageHoldsTheTriple : Obligations.HpvImageHoldsTheTriple := by
  refine ⟨fun _ => rfl, fun v hv => ?_, fun _ _ => hpv_eq_of_words,
    fun s _ hi => windowWord_hpv s hi⟩
  exact ⟨hpvWord_header_exponent hv, hpvWord_header_reserved v, hpvWord_header_valid v,
    hpvWord_header_sign v, sum_hpvWord hv, hpvWord_eleven_lt hv, fun _ => hpvWord_of_ge v⟩

end Sys2Proof.Machine
end

/-! PROOF. The bus (20_memory.md R31, R34): which accesses are admitted, and what an admitted write does. -/

namespace Sys2Proof.Machine

/-! ### Admission -/

theorem admitted_iff (a : Access) : a.admitted = true ↔ a.size = 4 ∧ a.off.toNat % 4 = 0 := by
  simp [Access.admitted]

/-- An admitted read is answered without an error, whether its value is reliable or free (R35). -/
theorem answerRead_response (r : Reg) (s : State) :
    ∃ w : Word, (answerRead r s).response = some ⟨false, w⟩ := by
  by_cases h : s.busy = false ∨ reliableWhileBusy r = true
  · exact ⟨_, by rw [answerRead_reliable h]⟩
  · obtain ⟨hb, hr⟩ := not_or.mp h
    rw [Bool.not_eq_false] at hb
    rw [Bool.not_eq_true] at hr
    exact ⟨_, by rw [answerRead_free hb hr]⟩

theorem performAccess_admitted_response {a : Access} (h : a.admitted = true) (s : State) :
    ∃ w : Word, (performAccess a s).response = some ⟨false, w⟩ := by
  cases a with
  | read n off =>
    rw [performAccess_read h]
    exact answerRead_response _ s
  | write n off v => exact ⟨0#32, by rw [performAccess_write h, answerWrite]⟩

/-- Settles O11: an access is either admitted, and answered as a read or a write, or refused. -/
theorem onlyAlignedWordAccessesAreAdmitted : Obligations.OnlyAlignedWordAccessesAreAdmitted := by
  intro a s
  rw [← admitted_iff, Bool.not_eq_true]
  exact ⟨fun h => performAccess_admitted_response h s, fun h => performAccess_refused h s⟩

/-! ### The registers a write can reach -/

/-- The registers with a write effect (10_state.md R10). -/
def writableRegs : List Reg := [.config, .roundCount, .evalArg, .cmd, .irqEn, .irqStat]

/-- Their offsets in the window (10_state.md R10). -/
def writableOffsets : List Offset := [0x008#14, 0x00C#14, 0x010#14, 0x014#14, 0x03C#14, 0x040#14]

theorem writeReg_of_notMem {r : Reg} (h : r ∉ writableRegs) (v : Word) (s : State) :
    writeReg r v s = s := by
  cases r with
  | config | roundCount | evalArg | cmd | irqEn | irqStat => exact absurd (by decide) h
  | _ => rfl

/-- Every register with a write effect is one of the first seventeen words of the map. -/
theorem regAt_notMem_writableRegs_of_ge {n : Nat} (h : 0x044 ≤ n) : regAt n ∉ writableRegs := by
  rw [regAt, if_neg (by omega)]
  split_ifs <;> simp [writableRegs]

theorem lowRegs_mem_writableRegs : ∀ w < 17, lowRegs.getD w .reserved ∈ writableRegs →
    BitVec.ofNat 14 (4 * w) ∈ writableOffsets := by decide

theorem mem_writableOffsets_of_regAt {off : Offset} (hal : off.toNat % 4 = 0)
    (h : regAt off.toNat ∈ writableRegs) : off ∈ writableOffsets := by
  have hlow : off.toNat < 0x044 := by
    by_contra hge
    exact regAt_notMem_writableRegs_of_ge (by omega) h
  rw [regAt, if_pos hlow] at h
  have hoff : BitVec.ofNat 14 (4 * (off.toNat / 4)) = off := by
    rw [Nat.mul_div_cancel' (Nat.dvd_of_mod_eq_zero hal), BitVec.ofNat_toNat, BitVec.setWidth_eq]
  rw [← hoff]
  exact lowRegs_mem_writableRegs _ (by omega) h

/-! ### What a write does, register by register -/

/-- The bus's answer to an admitted write: no error, data 0. -/
def acknowledge (s : State) : State := { s with response := some ⟨false, 0#32⟩ }

theorem answerWrite_eq_acknowledge (r : Reg) (v : Word) (s : State) :
    answerWrite r v s = acknowledge (writeReg r v s) := rfl

theorem configLocked_iff (s : State) :
    configLocked s = true ↔ s.inFlight.isSome ∨ s.state ≠ .idle := by
  simp [configLocked, State.busy]

theorem answerWrite_config (v : Word) (s : State) :
    answerWrite .config v s =
      if s.inFlight.isSome ∨ s.state ≠ .idle then acknowledge { s with wlock := true }
      else acknowledge { s with config := configOf v } := by
  simp only [answerWrite_eq_acknowledge, writeReg, configLocked_iff, apply_ite acknowledge]

theorem answerWrite_roundCount (v : Word) (s : State) :
    answerWrite .roundCount v s =
      if s.inFlight.isSome ∨ s.state ≠ .idle then acknowledge { s with wlock := true }
      else acknowledge { s with roundCount := v.extractLsb' 0 16 } := by
  simp only [answerWrite_eq_acknowledge, writeReg, configLocked_iff, apply_ite acknowledge]

/-- `BUSY` is the presence of a command in flight, by definition (10_state.md R28). -/
theorem answerWrite_evalArg (v : Word) (s : State) :
    answerWrite .evalArg v s =
      if s.inFlight.isSome then acknowledge { s with wlock := true }
      else acknowledge { s with evalArg := v } := by
  simp only [answerWrite_eq_acknowledge, writeReg, apply_ite acknowledge]
  rfl

/-- The acceptance of 60_exceptions.md R104: the two words with a meaning in ERROR are `CLEAR` and `NOP`. -/
theorem answerWrite_cmd (v : Word) (s : State) :
    answerWrite .cmd v s =
      if s.inFlight.isSome then acknowledge { s with cmdOvr := true }
      else if s.state ≠ .error then acknowledge { s with inFlight := some v }
      else if v = 7#32 then acknowledge { s with inFlight := some v }
      else if v = 0#32 then acknowledge s
      else acknowledge { s with cmdIgn := true } := by
  simp only [answerWrite_eq_acknowledge, writeReg, acceptCommand, apply_ite acknowledge, ne_eq, ite_not]
  rfl

theorem answerWrite_of_notMem {r : Reg} (h : r ∉ writableRegs) (v : Word) (s : State) :
    answerWrite r v s = acknowledge s := by
  rw [answerWrite_eq_acknowledge, writeReg_of_notMem h]

/-- An aligned 32-bit write reaches the register its offset names. -/
theorem performAccess_write_aligned {off : Offset} (h : off.toNat % 4 = 0) (v : Word) (s : State) :
    performAccess (.write 4 off v) s = answerWrite (regAt off.toNat) v s :=
  performAccess_write ((admitted_iff _).mpr ⟨rfl, h⟩) s

/-- Settles O12: each offset selects its register, and the register's rule gives the next state. -/
theorem writeAcceptance : Obligations.WriteAcceptance := by
  intro s v
  refine ⟨?config, ?roundCount, ?evalArg, ?cmd, ?irqEn, ?irqStat, ?others⟩
  case config => exact (performAccess_write_aligned rfl v s).trans (answerWrite_config v s)
  case roundCount => exact (performAccess_write_aligned rfl v s).trans (answerWrite_roundCount v s)
  case evalArg => exact (performAccess_write_aligned rfl v s).trans (answerWrite_evalArg v s)
  case cmd => exact (performAccess_write_aligned rfl v s).trans (answerWrite_cmd v s)
  case irqEn => exact performAccess_write_aligned rfl v s
  case irqStat => exact performAccess_write_aligned rfl v s
  case others =>
    intro off hal hoff
    have hreg : regAt off.toNat ∉ writableRegs := fun h => hoff (mem_writableOffsets_of_regAt hal h)
    exact (performAccess_write_aligned hal v s).trans (answerWrite_of_notMem hreg v s)

end Sys2Proof.Machine

/-! PROOF. The command encoding (30_encoding.md R40 to R43): the fields of a word, the outcomes of decoding,
and the fifteen legal words. -/

namespace Sys2Proof

/-! ### The fields of a word -/

theorem opField_toNat (w : Word) : (opField w).toNat = w.toNat % 256 := by
  simp [opField, BitVec.extractLsb'_toNat]

theorem kselField_toNat (w : Word) : (kselField w).toNat = w.toNat / 256 % 8 := by
  simp [kselField, BitVec.extractLsb'_toNat, Nat.shiftRight_eq_div_pow]

/-- `RSV` is all that stands above bit 10, so it is a quotient with no remainder to take. -/
theorem rsvField_toNat (w : Word) : (rsvField w).toNat = w.toNat / 2048 := by
  have hlt : w.toNat / 2048 < 2 ^ 21 := by have := w.isLt; omega
  simpa [rsvField, BitVec.extractLsb'_toNat, Nat.shiftRight_eq_div_pow] using hlt

theorem opField_eq_getc_iff (w : Word) : opField w = 2#8 ↔ w.toNat % 256 = 2 := by
  rw [← BitVec.toNat_inj, opField_toNat, BitVec.toNat_ofNat]

theorem kselField_eq_zero_iff (w : Word) : kselField w = 0#3 ↔ w.toNat / 256 % 8 = 0 := by
  rw [← BitVec.toNat_inj, kselField_toNat, BitVec.toNat_ofNat]

theorem rsvField_eq_zero_iff (w : Word) : rsvField w = 0#21 ↔ w.toNat / 2048 = 0 := by
  rw [← BitVec.toNat_inj, rsvField_toNat, BitVec.toNat_ofNat]

/-- The three fields cover the word. -/
theorem append_fields (w : Word) : rsvField w ++ kselField w ++ opField w = w := by
  have hhigh : rsvField w ++ kselField w = w.extractLsb' 8 24 :=
    BitVec.extractLsb'_append_extractLsb'_eq_extractLsb' rfl
  have hall : w.extractLsb' 8 24 ++ opField w = w.extractLsb' 0 32 :=
    BitVec.extractLsb'_append_extractLsb'_eq_extractLsb' rfl
  rw [hhigh, hall, BitVec.extractLsb'_eq_self]

/-! ### The opcode map (R42) -/

theorem constIndex_constOf : ∀ k : BitVec 3, constIndex (constOf k) = k := by decide

/-- The opcode map has no command from 8 on. -/
theorem commandOf_of_ge {op : BitVec 8} (h : 8 ≤ op.toNat) (k : BitVec 3) : commandOf op k = none := by
  unfold commandOf
  split
  case h_9 => rfl
  all_goals omega

/-- Below 8 it has a command of that opcode, and only opcode 2 keeps the `KSEL` it is given. -/
theorem commandOf_of_lt {op : BitVec 8} (h : op.toNat < 8) (k : BitVec 3) :
    ∃ i, commandOf op k = some i ∧ opcode i = op ∧ ksel i = if op = 2#8 then k else 0#3 := by
  obtain ⟨n, rfl⟩ : ∃ n : Fin 8, op = BitVec.ofNat 8 n := ⟨⟨op.toNat, h⟩, by simp⟩
  fin_cases n
  · exact ⟨.nop, rfl, rfl, rfl⟩
  · exact ⟨.init, rfl, rfl, rfl⟩
  · exact ⟨.getc (constOf k), rfl, rfl, constIndex_constOf k⟩
  · exact ⟨.eval, rfl, rfl, rfl⟩
  · exact ⟨.step, rfl, rfl, rfl⟩
  · exact ⟨.run, rfl, rfl, rfl⟩
  · exact ⟨.final, rfl, rfl, rfl⟩
  · exact ⟨.clear, rfl, rfl, rfl⟩

/-! ### The outcomes of decoding, in the order of the checks (R41) -/

section Outcomes

variable {w : Word}

theorem decode_unknown_opcode (hop : 8 ≤ (opField w).toNat) : decode w = .illegal 1#8 := by
  rw [decode, commandOf_of_ge hop]

theorem decode_reserved_bits (hop : (opField w).toNat < 8) (hrsv : rsvField w ≠ 0#21) :
    decode w = .illegal 2#8 := by
  obtain ⟨i, hi, -, -⟩ := commandOf_of_lt hop (kselField w)
  simp only [decode, hi, if_pos hrsv]

theorem decode_stray_ksel (hop : (opField w).toNat < 8) (hrsv : rsvField w = 0#21)
    (hk : kselField w ≠ 0#3) (hgetc : opField w ≠ 2#8) : decode w = .illegal 3#8 := by
  obtain ⟨i, hi, -, -⟩ := commandOf_of_lt hop (kselField w)
  simp only [decode, hi, if_neg (not_not.mpr hrsv), if_pos (And.intro hk hgetc)]

theorem decode_legal (hop : (opField w).toNat < 8) (hrsv : rsvField w = 0#21)
    (hk : kselField w = 0#3 ∨ opField w = 2#8) :
    ∃ i, decode w = .command i ∧ opcode i = opField w ∧ ksel i = kselField w := by
  obtain ⟨i, hi, hopcode, hksel⟩ := commandOf_of_lt hop (kselField w)
  have hcheck : ¬ (kselField w ≠ 0#3 ∧ opField w ≠ 2#8) := by tauto
  refine ⟨i, ?_, hopcode, ?_⟩
  · simp only [decode, hi, if_neg (not_not.mpr hrsv), if_neg hcheck]
  · rw [hksel, ite_eq_left_iff]
    exact fun hne => (hk.resolve_right hne).symm

end Outcomes

/-- Settles O1: the four outcomes, with the fields read as numbers. -/
theorem decodeChecksInOrder : Obligations.DecodeChecksInOrder := by
  intro w op k rsv
  have hop : (opField w).toNat = op := opField_toNat w
  have hgetc : opField w = 2#8 ↔ op = 2 := opField_eq_getc_iff w
  have hk : kselField w = 0#3 ↔ k = 0 := kselField_eq_zero_iff w
  have hrsv : rsvField w = 0#21 ↔ rsv = 0 := rsvField_eq_zero_iff w
  simp only [ne_eq, ← hgetc, ← hk, ← hrsv]
  rw [← hop]
  refine ⟨decode_unknown_opcode, decode_reserved_bits, decode_stray_ksel, fun hlt h0 hlegal => ?_⟩
  obtain ⟨i, hi, hopcode, hksel⟩ := decode_legal hlt h0 hlegal
  exact ⟨i, hi, congrArg BitVec.toNat hopcode, by rw [hksel]; exact kselField_toNat w⟩

/-! ### The fifteen words (R42) -/

/-- A command's word decodes to the command. -/
theorem decode_encode (i : Instr) : decode (encode i) = .command i := by
  cases i with
  | getc c => cases c <;> rfl
  | _ => rfl

/-- A word that decodes passed every check, so its fields are the command's. -/
theorem fields_of_decode {w : Word} {i : Instr} (h : decode w = .command i) :
    rsvField w = 0#21 ∧ kselField w = ksel i ∧ opField w = opcode i := by
  by_cases hop : 8 ≤ (opField w).toNat
  · simp [decode_unknown_opcode hop] at h
  rw [not_le] at hop
  by_cases hrsv : rsvField w = 0#21
  case neg => simp [decode_reserved_bits hop hrsv] at h
  by_cases hk : kselField w = 0#3 ∨ opField w = 2#8
  · obtain ⟨j, hj, hopcode, hksel⟩ := decode_legal hop hrsv hk
    obtain rfl : j = i := by simpa [hj] using h
    exact ⟨hrsv, hksel.symm, hopcode.symm⟩
  · obtain ⟨hk0, hgetc⟩ := not_or.mp hk
    simp [decode_stray_ksel hop hrsv hk0 hgetc] at h

theorem eq_encode_of_decode {w : Word} {i : Instr} (h : decode w = .command i) : w = encode i := by
  obtain ⟨hrsv, hksel, hopcode⟩ := fields_of_decode h
  rw [encode, ← hrsv, ← hksel, ← hopcode, append_fields]

theorem legalWord_encode (i : Instr) : legalWord (encode i) = true :=
  match i with
  | .nop => Laws.EncodeLegal.nop.2
  | .init => Laws.EncodeLegal.init.2
  | .getc c => (Laws.EncodeLegal.getc c).2
  | .eval => Laws.EncodeLegal.eval.2
  | .step => Laws.EncodeLegal.step.2
  | .run => Laws.EncodeLegal.run.2
  | .final => Laws.EncodeLegal.final.2
  | .clear => Laws.EncodeLegal.clear.2

/-- Only a command's word decodes to a command, and it is one of the fifteen. -/
theorem decode_illegal_of_not_legalWord {w : Word} (h : legalWord w = false) :
    ∃ d, decode w = .illegal d := by
  cases hd : decode w with
  | illegal d => exact ⟨d, rfl⟩
  | command i => simp [eq_encode_of_decode hd, legalWord_encode] at h

/-- Settles O3: the listed words are the encodings of the commands, and no other word has one. -/
theorem legalWordsAreTheFifteen : Obligations.LegalWordsAreTheFifteen :=
  ⟨decode_encode .nop, decode_encode .init, decode_encode (.getc .e), decode_encode (.getc .pi),
    decode_encode (.getc .phi), decode_encode (.getc .sqrt2), decode_encode (.getc .sqrt3),
    decode_encode (.getc .gamma), decode_encode (.getc .delta), decode_encode (.getc .rho),
    decode_encode .eval, decode_encode .step, decode_encode .run, decode_encode .final,
    decode_encode .clear, fun _ => decode_illegal_of_not_legalWord⟩

end Sys2Proof

/-! PROOF. The exact side of the arithmetic (40_numerics.md R52, R53, R56, R57, R60): the rounding of a
rational, the integer part, the digit count of a scale and the scaling. -/

namespace Sys2Proof.Machine

/-! ### `QMIN` and `SCALE_B` -/

theorem decLen_le_iff (n q : Nat) : decLen n ≤ q ↔ n < 10 ^ q := by
  obtain ⟨hlt, hle⟩ := decLen_spec n
  constructor
  · intro h
    exact hlt.trans_le (Nat.pow_le_pow_right (by decide) h)
  · intro h
    rcases hle with hzero | hle
    · omega
    · have := (Nat.pow_lt_pow_iff_right (a := 10) (by decide)).1 (hle.trans_lt h)
      omega

theorem qmin_le_iff (B q : Nat) : qmin B ≤ q ↔ 2 ^ B ≤ 10 ^ q := by
  have hpos : 0 < 2 ^ B := by positivity
  rw [qmin, decLen_le_iff]
  omega

/-- Settles O19: `2^B - 1` has at most `q` digits exactly when `2^B` is at most `10^q`. -/
theorem qminIsLeast : Obligations.QminIsLeast :=
  ⟨qmin_le_iff, by decide +kernel⟩

theorem scaleB_cast {f : HPV} (h : 0 ≤ f.toRat) (B : Nat) : ((scaleB B f : Nat) : ℤ) = ⌊f.toRat * 2 ^ B⌋ := by
  have hnonneg : 0 ≤ ⌊f.toRat * 2 ^ B⌋ := Int.floor_nonneg.2 (by positivity)
  rw [scaleB, Nat.cast_pow, Nat.cast_ofNat]
  exact Int.toNat_of_nonneg hnonneg

/-- Settles O21: the floor of a product that is not negative is a natural number, and below `2^B` with it. -/
theorem scaleIsExactFloor : Obligations.ScaleIsExactFloor := fun B _ hnonneg hlt =>
  ⟨scaleB_cast hnonneg B, scaleB_lt hlt⟩

/-! ### Values with a full coefficient -/

/-- The coefficient has exactly 100 digits, as in every canonical value but zero (40_numerics.md R51). -/
def HPV.FullCoeff (v : HPV) : Prop := 10 ^ 99 ≤ v.c ∧ v.c < 10 ^ 100

theorem canonical_iff (v : HPV) :
    v.canonical = true ↔ v = HPV.zero ∨ (v.FullCoeff ∧ -32768 ≤ v.e ∧ v.e ≤ 32767) := by
  simp [HPV.canonical, HPV.FullCoeff, Config.precision, Config.expMin, Config.expMax, and_assoc]

theorem HPV.toRat_eq (v : HPV) : v.toRat = (if v.s then -1 else 1) * (v.c * (10 : ℚ) ^ v.e) := by
  cases hs : v.s <;> simp [HPV.toRat, hs, pow10_eq_zpow]

theorem HPV.abs_toRat (v : HPV) : |v.toRat| = v.c * (10 : ℚ) ^ v.e := by
  have hnonneg : 0 ≤ v.c * (10 : ℚ) ^ v.e := by positivity
  cases hs : v.s <;> simp [HPV.toRat_eq, hs, abs_of_nonneg hnonneg]

theorem HPV.toRat_of_abs {v : HPV} {q : ℚ} (hs : v.s = decide (q < 0)) (habs : v.c * (10 : ℚ) ^ v.e = |q|) :
    v.toRat = q := by
  rw [HPV.toRat_eq, habs, hs]
  rcases lt_or_ge q 0 with hneg | hnonneg
  · simp [hneg, abs_of_neg]
  · simp [hnonneg.not_gt, abs_of_nonneg hnonneg]

theorem HPV.FullCoeff.toRat_neg_iff {v : HPV} (h : v.FullCoeff) : v.toRat < 0 ↔ v.s = true := by
  have hc : 0 < v.c := lt_of_lt_of_le (by positivity) h.1
  have hpos : 0 < v.c * (10 : ℚ) ^ v.e := by positivity
  cases hs : v.s <;> simp [HPV.toRat_eq, hs, hpos, hpos.le]

theorem HPV.FullCoeff.toRat_ne_zero {v : HPV} (h : v.FullCoeff) : v.toRat ≠ 0 := by
  have hc : 0 < v.c := lt_of_lt_of_le (by positivity) h.1
  rw [← abs_pos, v.abs_toRat]
  positivity

/-! ### Rounding a rational -/

/-- `c` and `e` are the coefficient, before its carry, and the exponent that 40_numerics.md R52 gives the
magnitude `x`. -/
structure RoundsTo (x : ℚ) (c : Nat) (e : Int) : Prop where
  lower : (10 : ℚ) ^ (e + 99) ≤ x
  upper : x < (10 : ℚ) ^ (e + 100)
  near : |(c : ℚ) - x / (10 : ℚ) ^ e| ≤ 1 / 2
  even : |(c : ℚ) - x / (10 : ℚ) ^ e| = 1 / 2 → c % 2 = 0

/-- The scaling of `roundRaw` by one natural power of ten above and one below is the division by `10^e`. -/
theorem natScaled_eq_div_zpow (n d : Nat) (e : Int) :
    ((n * 10 ^ (-e).toNat : Nat) : ℚ) / ((d * 10 ^ e.toNat : Nat) : ℚ) = (n : ℚ) / d / (10 : ℚ) ^ e := by
  have hsplit : (10 : ℚ) ^ e.toNat = (10 : ℚ) ^ e * (10 : ℚ) ^ (-e).toNat := by
    rw [← zpow_natCast, ← zpow_natCast, ← zpow_add₀ (by norm_num)]
    congr 1
    omega
  push_cast
  rw [hsplit, ← mul_assoc, mul_div_mul_right _ _ (by positivity), div_div]

@[simp] theorem roundRaw_zero : roundRaw 0 = HPV.zero := rfl

theorem roundRaw_spec {q : ℚ} (hq : q ≠ 0) :
    ∃ (c : Nat) (e : Int), RoundsTo |q| c e ∧ roundRaw q = carryOut (decide (q < 0)) c e := by
  have hnum : q.num ≠ 0 := Rat.num_ne_zero.2 hq
  have habs : |q| = (q.num.natAbs : ℚ) / q.den := by
    rw [Rat.abs_def, Rat.divInt_eq_div, Int.cast_natCast, Int.cast_natCast]
  obtain ⟨hlow, hhigh⟩ := floorLog10_spec (Int.natAbs_pos.2 hnum) q.den_pos
  have hround := fun e : Int => roundHalfEven_spec (n := q.num.natAbs * 10 ^ (-e).toNat)
    (d := q.den * 10 ^ e.toNat) (Nat.mul_pos q.den_pos (by positivity))
  simp only [natScaled_eq_div_zpow, ← habs] at hround
  rw [← habs] at hlow hhigh
  refine ⟨_, floorLog10 q.num.natAbs q.den - 100 + 1, ⟨?_, ?_, (hround _).1, (hround _).2⟩, ?_⟩
  · convert hlow using 2
    ring
  · convert hhigh using 2
    ring
  · simp only [roundRaw, if_neg hnum, Rat.num_neg]
    rfl

theorem RoundsTo.scaled_bounds {x : ℚ} {c : Nat} {e : Int} (h : RoundsTo x c e) :
    (10 : ℚ) ^ 99 ≤ x / (10 : ℚ) ^ e ∧ x / (10 : ℚ) ^ e < (10 : ℚ) ^ 100 := by
  have hpos : (0 : ℚ) < 10 ^ e := by positivity
  rw [le_div_iff₀ hpos, div_lt_iff₀ hpos, ← zpow_natCast, ← zpow_natCast, ← zpow_add₀ (by norm_num),
    ← zpow_add₀ (by norm_num), add_comm _ e, add_comm _ e]
  exact ⟨h.lower, h.upper⟩

/-- A rounded coefficient has 100 digits, or is the `10^100` that carries. -/
theorem RoundsTo.coeff_bounds {x : ℚ} {c : Nat} {e : Int} (h : RoundsTo x c e) : 10 ^ 99 ≤ c ∧ c ≤ 10 ^ 100 := by
  obtain ⟨hlow, hhigh⟩ := h.scaled_bounds
  obtain ⟨hbelow, habove⟩ := abs_le.1 h.near
  have hc1 : ((10 ^ 99 : Nat) : ℚ) < ((c + 1 : Nat) : ℚ) := by push_cast; linarith
  have hc2 : (c : ℚ) < ((10 ^ 100 + 1 : Nat) : ℚ) := by push_cast; linarith
  exact ⟨Nat.lt_succ_iff.1 (Nat.cast_lt.1 hc1), Nat.lt_succ_iff.1 (Nat.cast_lt.1 hc2)⟩

theorem carryOut_fullCoeff (s : Bool) {c : Nat} (e : Int) (hc : 10 ^ 99 ≤ c ∧ c ≤ 10 ^ 100) :
    (carryOut s c e).FullCoeff := by
  unfold carryOut
  split
  · exact ⟨le_rfl, by norm_num⟩
  · rename_i hne
    exact ⟨hc.1, lt_of_le_of_ne hc.2 hne⟩

/-- Every raw rounding is in canonical form but for the range of its exponent. -/
theorem roundRaw_fullCoeff {q : ℚ} (hq : q ≠ 0) : (roundRaw q).FullCoeff := by
  obtain ⟨c, e, hround, hraw⟩ := roundRaw_spec hq
  rw [hraw]
  exact carryOut_fullCoeff _ _ hround.coeff_bounds

theorem expInRange_iff (e : Int) : expInRange e = true ↔ -32768 ≤ e ∧ e ≤ 32767 := by
  simp [expInRange]

theorem roundRaw_canonical {q : ℚ} (h : expInRange (roundRaw q).e = true) :
    (roundRaw q).canonical = true := by
  rw [canonical_iff]
  by_cases hq : q = 0
  · exact Or.inl (by rw [hq, roundRaw_zero])
  · exact Or.inr ⟨roundRaw_fullCoeff hq, (expInRange_iff _).1 h⟩

/-! ### Rounding a value of the format -/

/-- The magnitude `c * 10^e` of a 100-digit coefficient is in the decade of exponent `e`, and in no other. -/
theorem RoundsTo.of_exact {c c' : Nat} {e e' : Int} (hc : 10 ^ 99 ≤ c ∧ c < 10 ^ 100)
    (h : RoundsTo (c * (10 : ℚ) ^ e) c' e') : c' = c ∧ e' = e := by
  have hpos : (0 : ℚ) < 10 ^ e := by positivity
  have hlow : (10 : ℚ) ^ (e + 99) ≤ c * (10 : ℚ) ^ e := by
    rw [add_comm, zpow_add₀ (by norm_num)]
    exact mul_le_mul_of_nonneg_right (by exact_mod_cast hc.1) hpos.le
  have hhigh : c * (10 : ℚ) ^ e < (10 : ℚ) ^ (e + 100) := by
    rw [add_comm, zpow_add₀ (by norm_num)]
    exact mul_lt_mul_of_pos_right (by exact_mod_cast hc.2) hpos
  have hlt : ∀ {a b : Int}, (10 : ℚ) ^ a < 10 ^ b → a < b := (zpow_lt_zpow_iff_right₀ (by norm_num)).1
  obtain rfl : e' = e := by
    have h1 := hlt (h.lower.trans_lt hhigh)
    have h2 := hlt (hlow.trans_lt h.upper)
    omega
  have hnear := h.near
  rw [mul_div_cancel_right₀ _ hpos.ne', abs_le] at hnear
  have h1 : (c' : ℚ) < ((c + 1 : Nat) : ℚ) := by push_cast; linarith
  have h2 : (c : ℚ) < ((c' + 1 : Nat) : ℚ) := by push_cast; linarith
  rw [Nat.cast_lt] at h1 h2
  exact ⟨by omega, rfl⟩

theorem roundRaw_toRat_of_fullCoeff {v : HPV} (hv : v.FullCoeff) : roundRaw v.toRat = v := by
  obtain ⟨c, e, hround, hraw⟩ := roundRaw_spec hv.toRat_ne_zero
  rw [v.abs_toRat] at hround
  obtain ⟨rfl, rfl⟩ := hround.of_exact hv
  rw [hraw, carryOut, if_neg hv.2.ne]
  simp [hv.toRat_neg_iff]

theorem roundRaw_toRat {v : HPV} (h : v.canonical = true) : roundRaw v.toRat = v := by
  rcases (canonical_iff v).1 h with rfl | ⟨hv, -⟩
  · rw [HPV.zero_toRat, roundRaw_zero]
  · exact roundRaw_toRat_of_fullCoeff hv

theorem canonical_exp_inRange {v : HPV} (h : v.canonical = true) : expInRange v.e = true := by
  obtain ⟨hmin, hmax, -⟩ := canonical_bounds h
  exact (expInRange_iff _).2 ⟨hmin, hmax⟩

theorem roundP_toRat {v : HPV} (h : v.canonical = true) : roundP v.toRat = .ok v := by
  rw [roundP, roundRaw_toRat h, checkExp, if_pos (canonical_exp_inRange h)]

theorem roundP_canonical {q : ℚ} {v : HPV} (h : roundP q = .ok v) : v.canonical = true := by
  obtain ⟨rfl, hrange⟩ := roundP_ok h
  exact roundRaw_canonical hrange

/-- Settles O17: the raw rounding has the coefficient and exponent of R52, a coefficient that makes it
canonical once its exponent is in range, and is the identity on the format. -/
theorem roundPIsHalfEvenTo100Digits : Obligations.RoundPIsHalfEvenTo100Digits := by
  refine ⟨fun q => ⟨?zero, ?nonzero⟩, fun _ _ => roundP_canonical, fun _ => roundP_toRat⟩
  case zero => rintro rfl; rfl
  case nonzero =>
    intro hq
    obtain ⟨c, e, hround, hraw⟩ := roundRaw_spec hq
    refine ⟨e, c, hround.lower, hround.upper, hround.near, hround.even, ?_⟩
    rw [roundP, hraw]
    simp only [checkExp, expInRange_iff]
    rfl

/-! ### `FLOOR` -/

/-- Zeros behind the digits of `n` fill it up to a full coefficient. -/
theorem padded_bounds {n k : Nat} (hn : 0 < n) (hk : decLen n + k = 100) :
    10 ^ 99 ≤ n * 10 ^ k ∧ n * 10 ^ k < 10 ^ 100 := by
  obtain ⟨hlt, hle⟩ := decLen_spec n
  have hpos := decLen_pos hn
  constructor
  · calc 10 ^ 99 = 10 ^ (decLen n - 1) * 10 ^ k := by rw [← pow_add]; congr 1; omega
      _ ≤ n * 10 ^ k := Nat.mul_le_mul_right _ (hle.resolve_left hpos.ne')
  · calc n * 10 ^ k < 10 ^ decLen n * 10 ^ k := Nat.mul_lt_mul_of_pos_right hlt (by positivity)
      _ = 10 ^ 100 := by rw [← pow_add, hk]

/-- An integer of at most 100 digits is a value of the format, its coefficient filled up with zeros. -/
theorem exists_canonical_of_int {m : Int} (hm : m.natAbs < 10 ^ 100) :
    ∃ v : HPV, v.canonical = true ∧ v.toRat = m := by
  rcases eq_or_ne m 0 with rfl | hne
  · exact ⟨HPV.zero, rfl, HPV.zero_toRat⟩
  · obtain ⟨k, hk⟩ := Nat.exists_eq_add_of_le ((decLen_le_iff m.natAbs 100).2 hm)
    have hfull := padded_bounds (Int.natAbs_pos.2 hne) hk.symm
    have hrange : -32768 ≤ -(k : Int) ∧ -(k : Int) ≤ 32767 := by omega
    refine ⟨⟨decide (m < 0), m.natAbs * 10 ^ k, -k⟩, (canonical_iff _).2 (Or.inr ⟨hfull, hrange⟩),
      HPV.toRat_of_abs (by simp) ?_⟩
    push_cast
    rw [zpow_neg, zpow_natCast, mul_inv_cancel_right₀ (by positivity), Nat.cast_natAbs, Int.cast_abs]

/-- A value with no fractional digits is its own floor. -/
theorem floor_toRat_of_exp_nonneg {v : HPV} (he : 0 ≤ v.e) : ((⌊v.toRat⌋ : Int) : ℚ) = v.toRat := by
  obtain ⟨n, hn⟩ := Int.eq_ofNat_of_zero_le he
  have hint : v.toRat = (((if v.s then -1 else 1) * (v.c * 10 ^ n) : Int) : ℚ) := by
    rw [HPV.toRat_eq, hn]
    push_cast
    rfl
  rw [hint, Int.floor_intCast]

/-- A value with fractional digits has an integer part of at most 100 digits. -/
theorem natAbs_floor_toRat_lt {v : HPV} (hc : v.c < 10 ^ 100) (he : v.e < 0) :
    ⌊v.toRat⌋.natAbs < 10 ^ 100 := by
  have habs : |v.toRat| < (10 : ℚ) ^ 99 := by
    rw [v.abs_toRat]
    calc v.c * (10 : ℚ) ^ v.e ≤ v.c * (10 : ℚ) ^ (-1 : Int) := by
          gcongr
          · norm_num
          · omega
      _ < (10 : ℚ) ^ 100 * (10 : ℚ) ^ (-1 : Int) := by gcongr; exact_mod_cast hc
      _ = (10 : ℚ) ^ 99 := by norm_num
  obtain ⟨hlow, hhigh⟩ := abs_lt.1 habs
  have h1 : -(10 ^ 99 : Int) ≤ ⌊v.toRat⌋ := Int.le_floor.2 (by push_cast; exact hlow.le)
  have h2 : ⌊v.toRat⌋ < (10 ^ 99 : Int) := Int.floor_lt.2 (by push_cast; exact hhigh)
  omega

/-- The integer part of a canonical value is a canonical value: the value itself, or an integer of at most
100 digits. -/
theorem exists_canonical_floor {v : HPV} (h : v.canonical = true) :
    ∃ u : HPV, u.canonical = true ∧ u.toRat = (⌊v.toRat⌋ : ℚ) := by
  rcases le_or_gt 0 v.e with he | he
  · exact ⟨v, h, (floor_toRat_of_exp_nonneg he).symm⟩
  · obtain ⟨-, -, hc⟩ := canonical_bounds h
    exact exists_canonical_of_int (natAbs_floor_toRat_lt hc he)

theorem hpFloor_spec {v : HPV} (h : v.canonical = true) :
    (hpFloor v).canonical = true ∧ (hpFloor v).toRat = (⌊v.toRat⌋ : ℚ) := by
  obtain ⟨u, hu, hval⟩ := exists_canonical_floor h
  have hfloor : hpFloor v = u := by
    change roundRaw (⌊v.toRat⌋ : ℚ) = u
    rw [← hval, roundRaw_toRat hu]
  rw [hfloor]
  exact ⟨hu, hval⟩

/-- Settles O18: the integer part is a value of the format, so `FLOOR` keeps it exactly. -/
theorem floorIsExact : Obligations.FloorIsExact := by
  intro v h
  obtain ⟨hcanonical, hval⟩ := hpFloor_spec h
  refine ⟨hcanonical, hval, fun hneg => ?_⟩
  rw [hval, abs_of_neg hneg, Int.ceil_neg, Int.cast_neg, neg_neg]

end Sys2Proof.Machine

/-! PROOF. The packer (42_generation.md R83, R85): the digit string of a round, the integer a bitstream
denotes, and the hexadecimal digits of the aggregate. -/

namespace Sys2Proof.Machine

/-! ### The integer of a bit string -/

theorem bitsValue_eq_ofDigits (bits : List Bool) :
    bitsValue bits = Nat.ofDigits 2 (bits.map Bool.toNat).reverse := by
  rw [← foldl_eq_ofDigits_reverse, List.foldl_map, bitsValue]

/-- The first bit is the most significant one: it stands above all the others. -/
theorem bitsValue_cons (b : Bool) (bits : List Bool) :
    bitsValue (b :: bits) = bitsValue bits + b.toNat * 2 ^ bits.length := by
  simp [bitsValue_eq_ofDigits, Nat.ofDigits_append, Nat.mul_comm]

/-- `V` of R85: bit `j` of a stream of `L` bits has weight `2 ^ (L - 1 - j)`. -/
theorem bitsValue_eq_sum (bits : List Bool) :
    bitsValue bits =
      ∑ j ∈ Finset.range bits.length, (bits.getD j false).toNat * 2 ^ (bits.length - 1 - j) := by
  induction bits with
  | nil => rfl
  | cons b bits ih =>
    rw [bitsValue_cons, ih, List.length_cons, Finset.sum_range_succ']
    simp [Nat.sub_sub, Nat.add_comm]

/-! ### The length of a round -/

theorem lenOf_minimal_zero (B : Nat) : lenOf .minimal B 0 = 1 := rfl

theorem lenOf_minimal_of_ne_zero (B : Nat) {m : Nat} (h : m ≠ 0) :
    lenOf .minimal B m = Nat.log2 m + 1 := if_neg h

/-- The minimal length is enough for the value, and one digit less is not. -/
theorem lenOf_minimal_bounds (B : Nat) {m : Nat} (h : m ≠ 0) :
    m < 2 ^ lenOf .minimal B m ∧ 2 ^ (lenOf .minimal B m - 1) ≤ m := by
  rw [lenOf_minimal_of_ne_zero B h, Nat.add_sub_cancel]
  exact ⟨Nat.lt_log2_self, Nat.log2_self_le h⟩

theorem lt_two_pow_lenOf (pad : PadMode) {B m : Nat} (h : m < 2 ^ B) : m < 2 ^ lenOf pad B m := by
  cases pad with
  | fixed => exact h
  | minimal =>
    rcases eq_or_ne m 0 with rfl | hm
    · exact Nat.two_pow_pos _
    · exact (lenOf_minimal_bounds B hm).1

/-! ### The digit string -/

theorem digitString_getD {L i : Nat} (x : BitVec 128) (h : i < L) :
    (digitString L x).getD i false = x.getLsbD (L - 1 - i) := by
  simp [digitString, h]

/-- One digit more puts the next higher bit in front. -/
theorem digitString_succ (L : Nat) (x : BitVec 128) :
    digitString (L + 1) x = x.getLsbD L :: digitString L x := by
  simp [digitString, List.range_succ_eq_map, Nat.sub_sub, Nat.add_comm]

/-- `L` digits denote the `L` low bits of the value. -/
theorem bitsValue_digitString (L : Nat) (x : BitVec 128) :
    bitsValue (digitString L x) = x.toNat % 2 ^ L := by
  induction L with
  | zero => simp [digitString, bitsValue, Nat.mod_one]
  | succ L ih =>
    rw [digitString_succ, bitsValue_cons, ih, digitString_length, Nat.mod_pow_succ,
      ← BitVec.testBit_toNat, Nat.toNat_testBit, Nat.mul_comm (2 ^ L)]

/-- With `PAD` = 0 a nonzero value has no leading zero digit. -/
theorem digitString_minimal_head (B : Nat) {x : BitVec 128} (h : x.toNat ≠ 0) :
    (digitString (lenOf .minimal B x.toNat) x).head? = some true := by
  rw [lenOf_minimal_of_ne_zero B h, digitString_succ, List.head?_cons, ← BitVec.testBit_toNat,
    Nat.testBit_log2 h]

/-- Settles O33: the length is enough for the value, and that many low bits of it are all of it. -/
theorem digitStringIsTheBinaryRendering : Obligations.DigitStringIsTheBinaryRendering := by
  refine ⟨?length, ?range, ?digits, ?value, ?first⟩
  case length =>
    exact fun B m => ⟨rfl, lenOf_minimal_zero B, fun hm => lenOf_minimal_bounds B (by omega)⟩
  case range => exact fun pad _ m hB hm => ⟨lenOf_pos pad hB m, lenOf_le pad hB hm⟩
  case digits => exact fun L x => ⟨digitString_length L x, fun _ => digitString_getD x⟩
  case value =>
    intro pad B x _ _ hx
    rw [bitsValue_digitString, Nat.mod_eq_of_lt (lt_two_pow_lenOf pad hx)]
  case first =>
    refine fun B x => ⟨?_, fun hx => digitString_minimal_head B (BitVec.toNat_ne.1 hx)⟩
    rintro rfl
    exact digitString_succ 0 0#128

/-! ### The hexadecimal digits -/

@[simp] theorem hexDigits_length (H v : Nat) : (hexDigits H v).length = H := by
  simp [hexDigits]

theorem hexDigits_getD_toNat {H d : Nat} (v : Nat) (h : d < H) :
    ((hexDigits H v).getD d 0#4).toNat = v / 2 ^ (4 * (H - 1 - d)) % 16 := by
  simp [hexDigits, h, Nat.shiftRight_eq_div_pow]

theorem hexDigitCount_of_ne_zero {v : Nat} (h : v ≠ 0) :
    hexDigitCount v = (Nat.log2 v + 1 + 3) / 4 := by
  rw [hexDigitCount, if_neg h, bitLen, if_neg h]

theorem hexDigits_succ_head? (H v : Nat) :
    (hexDigits (H + 1) v).head? = some (BitVec.ofNat 4 (v >>> (4 * H))) := by
  simp [hexDigits, List.range_succ_eq_map]

/-- The first of `hexDigitCount v` digits holds the highest one bit of `v`, so it is not zero. -/
theorem hexDigits_hexDigitCount_head {v : Nat} (h : v ≠ 0) :
    (hexDigits (hexDigitCount v) v).head? ≠ some 0#4 := by
  have hcount : hexDigitCount v = Nat.log2 v / 4 + 1 := by rw [hexDigitCount_of_ne_zero h]; omega
  have hpos : 0 < v / 2 ^ (4 * (Nat.log2 v / 4)) :=
    Nat.div_pos ((Nat.le_log2 h).1 (Nat.mul_div_le _ _)) (Nat.two_pow_pos _)
  have hbound : v < 2 ^ (4 * (Nat.log2 v / 4) + 4) := (Nat.log2_lt h).1 (by omega)
  have hlt : v / 2 ^ (4 * (Nat.log2 v / 4)) < 16 :=
    Nat.div_lt_of_lt_mul (by rwa [pow_add] at hbound)
  rw [hcount, hexDigits_succ_head?, Nat.shiftRight_eq_div_pow, ne_eq, Option.some_inj,
    ← BitVec.toNat_inj, BitVec.toNat_ofNat, Nat.mod_eq_of_lt hlt]
  exact hpos.ne'

theorem aggregateDigits_nil : aggregateDigits [] = [] := rfl

theorem aggregateDigits_of_ne_nil {bits : List Bool} (h : bits ≠ []) :
    aggregateDigits bits = hexDigits (hexDigitCount (bitsValue bits)) (bitsValue bits) := if_neg h

/-- Settles O34: `V` is the value of the stream, and its digits are those of `hexDigits`. -/
theorem aggregateIsTheHexadecimalInteger : Obligations.AggregateIsTheHexadecimalInteger := by
  intro s
  simp only [← bitsValue_eq_sum, aggregate_hx]
  refine ⟨rfl, rfl, ?empty, ?zero, ?nonzero, aggregateDigits_length_le⟩
  case empty =>
    intro hL
    rw [List.length_eq_zero_iff.1 hL, aggregateDigits_nil]
  case zero =>
    intro hL hV
    rw [aggregateDigits_of_ne_nil (List.length_eq_zero_iff.not.1 hL), hV]
    rfl
  case nonzero =>
    intro hL hV
    rw [aggregateDigits_of_ne_nil (List.length_eq_zero_iff.not.1 hL), hexDigits_length]
    exact ⟨hexDigitCount_of_ne_zero hV, hexDigits_hexDigitCount_head hV,
      fun _ => hexDigits_getD_toNat _⟩

end Sys2Proof.Machine

/-! PROOF. Reset (70_reset_and_hazards.md R120): what every register of the window reads after it. -/

namespace Sys2Proof.Machine

/-! ### The images of empty state -/

theorem bsWord_nil (w : Nat) : bsWord [] w = 0#32 := by
  simp only [bsWord, List.getD_nil]
  decide

theorem hexWord_nil (w : Nat) : hexWord [] w = 0#32 := by
  simp only [hexWord, List.getD_nil]
  decide

theorem statusWord_hardReset (s : State) : statusWord (hardReset s) = 0#32 := by
  simp only [statusWord, State.busy, hardReset_cmdIgn, hardReset_wlock, hardReset_cmdOvr, hardReset_inFlight,
    hardReset_state]
  decide

theorem errWord_hardReset (s : State) : errWord (hardReset s) = 0#32 := by
  simp only [errWord, hardReset_errOpc, hardReset_errDetail, hardReset_errCode]
  decide

theorem configWord_reset : configWord ConfigReg.reset = 0x00008064#32 := by decide

/-! ### The reset value of a register -/

/-- What a register reads after reset, in the order of the map (10_state.md R10). -/
def resetWord : Reg → Word
  | .id => 0x4F504301#32
  | .caps => 0x04008064#32
  | .config => 0x00008064#32
  | .roundCount => 0x00000096#32
  | _ => 0#32

theorem readReg_hardReset (s : State) (r : Reg) : readReg (hardReset s) r = resetWord r := by
  cases r with
  | config => exact configWord_reset
  | status => exact statusWord_hardReset s
  | err => exact errWord_hardReset s
  | scaled i => exact BitVec.extractLsb'_zero
  | bsbuf w => exact bsWord_nil w
  | hexbuf w => exact hexWord_nil w
  | _ => rfl

/-! ### The reset value of a word of the window -/

/-- The reset value of word `w` of the window: only its first four words are not zero. -/
def resetWindowWord (w : Nat) : Word :=
  if w = 0 then 0x4F504301#32
  else if w = 1 then 0x04008064#32
  else if w = 2 then 0x00008064#32
  else if w = 3 then 0x00000096#32
  else 0#32

theorem resetWindowWord_of_ge {w : Nat} (h : 4 ≤ w) : resetWindowWord w = 0#32 := by
  simp (disch := omega) only [resetWindowWord, if_neg]

theorem resetWord_lowRegs : ∀ w < 17, resetWord (lowRegs.getD w .reserved) = resetWindowWord w := by
  decide

/-- Past its first seventeen words the map holds no register with a reset value other than 0. -/
theorem resetWord_regAt_of_ge {off : Nat} (h : 0x044 ≤ off) : resetWord (regAt off) = 0#32 := by
  rw [regAt, if_neg (by omega)]
  split_ifs <;> rfl

theorem resetWord_regAt (off : Nat) : resetWord (regAt off) = resetWindowWord (off / 4) := by
  by_cases hlow : off < 0x044
  · rw [regAt, if_pos hlow]
    exact resetWord_lowRegs _ (by omega)
  · rw [resetWord_regAt_of_ge (by omega), resetWindowWord_of_ge (by omega)]

theorem windowWord_hardReset (s : State) (off : Nat) :
    windowWord (hardReset s) off = resetWindowWord (off / 4) :=
  (readReg_hardReset s _).trans (resetWord_regAt off)

/-! ### The reset input -/

theorem step_rst {s : State} {rest : List Input} (h : s.inputs = .rst :: rest) :
    step s = .next (hardReset { s with inputs := rest }) := step_cons h

theorem irqOut_hardReset (s : State) : irqOut (hardReset s) = false := by
  simp only [irqOut, hardReset_irqStat, hardReset_irqEn]
  decide

/-- Settles O16: the step is `hardReset`, and a word of the window reads as its register does after it. -/
theorem resetLeavesTheTable : Obligations.ResetLeavesTheTable := by
  intro s rest h
  refine ⟨_, step_rst h, fun off _ => windowWord_hardReset _ off, ?unmapped⟩
  case unmapped =>
    simp only [hardReset_state, hardReset_mixres, hardReset_intpart, hardReset_fracp, hardReset_cval,
      hardReset_bank, hardReset_act, hardReset_bs, hardReset_hx, hardReset_inFlight, irqOut_hardReset,
      and_self]

end Sys2Proof.Machine

/-! PROOF. The command encoding as an inverse pair (30_encoding.md R40 to R42), and the image of `CONFIG`
(10_state.md R12, 30_encoding.md R47). -/

namespace Sys2Proof

/-- Settles O2: only a command's word decodes to the command, and it does. -/
theorem decodeIsInverseOfEncode : Obligations.DecodeIsInverseOfEncode := by
  intro w i
  constructor
  · exact eq_encode_of_decode
  · rintro rfl
    exact decode_encode i

/-- Settles O4: five closed words. -/
theorem sampleWordsDecode : Obligations.SampleWordsDecode := by
  unfold Obligations.SampleWordsDecode
  decide

namespace Machine

/-! ### `CONFIG` as a number -/

theorem toNat_append_eq_add {m n : Nat} (x : BitVec m) (y : BitVec n) :
    (x ++ y).toNat = x.toNat * 2 ^ n + y.toNat := by
  rw [BitVec.toNat_append, ← Nat.shiftLeft_add_eq_or_of_lt y.isLt, Nat.shiftLeft_eq]

theorem configWord_toNat (c : ConfigReg) :
    (configWord c).toNat = c.prec.toNat + 256 * c.bits.toNat + 65536 * c.mix.bit.toNat
      + 131072 * c.cmode.bit.toNat + 262144 * c.pad.bit.toNat := by
  simp only [configWord, toNat_append_eq_add, BitVec.toNat_ofNat]
  omega

/-- A bit of a word, as a digit of its number. -/
theorem getLsbD_iff_digit (v : Word) (i : Nat) : v.getLsbD i = true ↔ v.toNat / 2 ^ i % 2 = 1 := by
  rw [← BitVec.testBit_toNat, Nat.testBit_eq_decide_div_mod_eq, decide_eq_true_iff]

/-- The fields a word stores, read off its number. -/
theorem configOf_eq_of_toNat {v : Word} {p b : BitVec 8} {m c d : Nat} (hm : m < 2) (hc : c < 2) (hd : d < 2)
    (hv : v.toNat = p.toNat + 256 * b.toNat + 65536 * m + 131072 * c + 262144 * d) :
    configOf v = ⟨p, b, if m = 0 then .v2 else .v1, if c = 0 then .full else .legacy,
      if d = 0 then .minimal else .fixed⟩ := by
  have hp := p.isLt
  have hb := b.isLt
  have hprec : v.extractLsb' 0 8 = p := by
    apply BitVec.eq_of_toNat_eq
    rw [BitVec.extractLsb'_toNat, Nat.shiftRight_zero]
    omega
  have hbits : v.extractLsb' 8 8 = b := by
    apply BitVec.eq_of_toNat_eq
    rw [BitVec.extractLsb'_toNat, Nat.shiftRight_eq_div_pow]
    omega
  have h16 : v.getLsbD 16 = true ↔ ¬ m = 0 := by rw [getLsbD_iff_digit]; omega
  have h17 : v.getLsbD 17 = true ↔ ¬ c = 0 := by rw [getLsbD_iff_digit]; omega
  have h18 : v.getLsbD 18 = true ↔ ¬ d = 0 := by rw [getLsbD_iff_digit]; omega
  simp only [configOf, hprec, hbits, h16, h17, h18, ite_not]

theorem ofBool_getLsbD_toNat (v : Word) (i : Nat) :
    (BitVec.ofBool (v.getLsbD i)).toNat = v.toNat / 2 ^ i % 2 := by
  rw [BitVec.toNat_ofBool, ← BitVec.testBit_toNat, Nat.toNat_testBit]

theorem mix_bit_ite (b : Bool) : (if b then MixVariant.v1 else .v2).bit = BitVec.ofBool b := by
  cases b <;> rfl

theorem cmode_bit_ite (b : Bool) : (if b then ConstMode.legacy else .full).bit = BitVec.ofBool b := by
  cases b <;> rfl

theorem pad_bit_ite (b : Bool) : (if b then PadMode.fixed else .minimal).bit = BitVec.ofBool b := by
  cases b <;> rfl

/-- The code of a one-bit field is the bit it was stored from (10_state.md R12). -/
theorem configOf_codes (v : Word) :
    (configOf v).mix.bit = BitVec.ofBool (v.getLsbD 16) ∧ (configOf v).cmode.bit = BitVec.ofBool (v.getLsbD 17) ∧
      (configOf v).pad.bit = BitVec.ofBool (v.getLsbD 18) :=
  ⟨mix_bit_ite _, cmode_bit_ite _, pad_bit_ite _⟩

/-- The bits a word stores into `CONFIG`, as the number they read back. -/
theorem configWord_configOf_toNat (v : Word) : (configWord (configOf v)).toNat = v.toNat % 2 ^ 19 := by
  obtain ⟨hmix, hcmode, hpad⟩ := configOf_codes v
  have hprec : (configOf v).prec.toNat = v.toNat % 256 := BitVec.extractLsb'_toNat ..
  have hbits : (configOf v).bits.toNat = v.toNat / 2 ^ 8 % 256 := by
    rw [← Nat.shiftRight_eq_div_pow]
    exact BitVec.extractLsb'_toNat ..
  rw [configWord_toNat, hmix, hcmode, hpad, hprec, hbits, ofBool_getLsbD_toNat, ofBool_getLsbD_toNat,
    ofBool_getLsbD_toNat]
  omega

theorem configOf_configWord (c : ConfigReg) : configOf (configWord c) = c := by
  rw [configOf_eq_of_toNat c.mix.bit.isLt c.cmode.bit.isLt c.pad.bit.isLt (configWord_toNat c)]
  obtain ⟨prec, bits, mix, cmode, pad⟩ := c
  cases mix <;> cases cmode <;> cases pad <;> rfl

/-- Settles O5: the image and the stored fields are compared as numbers. -/
theorem configReadsBackWhatWasStored : Obligations.ConfigReadsBackWhatWasStored := by
  refine ⟨fun v => ?image, configOf_configWord, ?setcfg⟩
  case image =>
    apply BitVec.eq_of_toNat_eq
    rw [configWord_configOf_toNat, BitVec.toNat_and]
    exact (Nat.and_two_pow_sub_one_eq_mod v.toNat 19).symm
  case setcfg =>
    intro prec bits mix cmode pad hprec hbits hmix hcmode hpad
    refine configOf_eq_of_toNat hmix hcmode hpad ?_
    simp only [setcfgWord, BitVec.toNat_ofNat]
    omega

end Machine

end Sys2Proof

/-! PROOF. What each register of the map reads (10_state.md R10 to R22), the interrupt output (R106), reads on
the bus (20_memory.md R35), reserved offsets (R36), and accesses while a command is in flight (R37). -/

namespace Sys2Proof.Machine

/-! ### The words of the map -/

theorem regAt_scaled {i : Nat} (h : i < 4) : regAt (0x050 + 4 * i) = .scaled i := by
  simp (disch := omega) only [regAt, if_neg, if_pos, Reg.scaled.injEq]
  omega

theorem statusWord_toNat (s : State) :
    (statusWord s).toNat = s.state.code.toNat + 8 * s.inFlight.isSome.toNat + 16 * s.cmdOvr.toNat
      + 32 * s.wlock.toNat + 64 * s.cmdIgn.toNat := by
  simp only [statusWord, toNat_append_eq_add, BitVec.toNat_ofNat, BitVec.toNat_ofBool, State.busy]
  omega

theorem errWord_toNat (s : State) :
    (errWord s).toNat = s.errCode.toNat + 256 * s.errDetail.toNat + 65536 * s.errOpc.toNat := by
  simp only [errWord, toNat_append_eq_add, BitVec.toNat_ofNat]
  omega

/-- A field of at most 32 bits keeps its number in a register. -/
theorem toNat_setWidth_word {n : Nat} (h : n ≤ 32) (x : BitVec n) : (x.setWidth 32).toNat = x.toNat := by
  rw [BitVec.toNat_setWidth, Nat.mod_eq_of_lt (x.isLt.trans_le (Nat.pow_le_pow_right (by decide) h))]

/-- Settles O9: each offset holds its register, and the packed registers are read as numbers. -/
theorem registersReadTheirState : Obligations.RegistersReadTheirState := by
  intro s
  refine ⟨rfl, rfl, ?config, ?roundCount, rfl, rfl, ?status, ?err, rfl, rfl, rfl, rfl, rfl, rfl, rfl,
    ?irqEn, ?irqStat, ?scaled⟩
  case config =>
    refine (configWord_toNat s.config).trans ?_
    obtain ⟨_, _, _ | _, _ | _, _ | _⟩ := s.config <;> rfl
  case roundCount => exact toNat_setWidth_word (by decide) s.roundCount
  case status =>
    refine (statusWord_toNat s).trans ?_
    cases s.state <;> rfl
  case err => exact errWord_toNat s
  case irqEn => exact toNat_setWidth_word (by decide) s.irqEn
  case irqStat => exact toNat_setWidth_word (by decide) s.irqStat
  case scaled =>
    intro i hi
    rw [windowWord, regAt_scaled hi, readReg]

/-! ### The interrupt output -/

theorem clearPending_getLsbD (p : BitVec 2) (v : Word) {j : Nat} (hj : j < 2) :
    (clearPending p v).getLsbD j = (p.getLsbD j && !v.getLsbD j) := by
  simp [clearPending, hj]

/-- Settles O10: the level by its definition, the pending bits one by one. -/
theorem irqIsLevelOfEnabledPendingBits : Obligations.IrqIsLevelOfEnabledPendingBits := by
  intro s v
  refine ⟨?level, fun _ hj => clearPending_getLsbD s.irqStat v hj, rfl⟩
  case level => simp only [irqOut, Bool.or_eq_true, Bool.and_eq_true]

/-! ### Reads -/

theorem performAccess_read_aligned {off : Offset} (h : off.toNat % 4 = 0) (s : State) :
    performAccess (.read 4 off) s = answerRead (regAt off.toNat) s :=
  performAccess_read ((admitted_iff _).mpr ⟨rfl, h⟩) s

/-- The offsets of the registers with a reliable read while `BUSY` = 1 (20_memory.md R35), and of `CMD`. -/
def reliableOffsets : List Offset := [0x000#14, 0x004#14, 0x014#14, 0x018#14, 0x03C#14, 0x040#14]

theorem reliable_of_mem_reliableOffsets :
    ∀ off ∈ reliableOffsets, reliableWhileBusy (regAt off.toNat) = true := by
  intro off h
  fin_cases h <;> rfl

theorem lowRegs_mem_reliableOffsets : ∀ w < 17, reliableWhileBusy (lowRegs.getD w .reserved) = true →
    BitVec.ofNat 14 (4 * w) ∈ reliableOffsets := by decide

/-- Past its first seventeen words the map has no register with a reliable read while `BUSY` = 1. -/
theorem reserved_of_reliable_of_ge {n : Nat} (h : 0x044 ≤ n) :
    reliableWhileBusy (regAt n) = true → regAt n = .reserved := by
  rw [regAt, if_neg (by omega)]
  split_ifs <;> simp [reliableWhileBusy]

theorem not_reliable_of_notMem {off : Offset} (hal : off.toNat % 4 = 0) (hoff : off ∉ reliableOffsets)
    (hreg : regAt off.toNat ≠ .reserved) : reliableWhileBusy (regAt off.toNat) = false := by
  by_contra hr
  rw [Bool.not_eq_false] at hr
  have hlow : off.toNat < 0x044 := by
    by_contra hge
    exact hreg (reserved_of_reliable_of_ge (not_lt.1 hge) hr)
  have heq : BitVec.ofNat 14 (4 * (off.toNat / 4)) = off := by
    rw [Nat.mul_div_cancel' (Nat.dvd_of_mod_eq_zero hal), BitVec.ofNat_toNat, BitVec.setWidth_eq]
  rw [regAt, if_pos hlow] at hr
  exact hoff (heq ▸ lowRegs_mem_reliableOffsets _ (by omega) hr)

theorem busy_eq_false_iff (s : State) : s.busy = false ↔ s.inFlight = none := by
  simp [State.busy]

theorem busy_eq_true_iff (s : State) : s.busy = true ↔ s.inFlight ≠ none := by
  simp [State.busy, Option.isSome_iff_ne_none]

/-- Settles O13: a read is reliable or free, and the offset says which. -/
theorem readsWhileBusyAreFree : Obligations.ReadsWhileBusyAreFree := by
  intro s off hal
  rw [performAccess_read_aligned hal]
  refine ⟨fun h => ?reliable, fun hoff hreg hbusy => ?free⟩
  case reliable =>
    apply answerRead_reliable
    rcases h with hoff | hidle
    · exact Or.inr (reliable_of_mem_reliableOffsets off hoff)
    · exact Or.inl ((busy_eq_false_iff s).2 hidle)
  case free =>
    exact answerRead_free ((busy_eq_true_iff s).2 hbusy) (not_reliable_of_notMem hal hoff hreg)

/-! ### Reserved offsets -/

theorem regAt_reserved {n : Nat} (h : (0x044 ≤ n ∧ n < 0x050) ∨ (0x060 ≤ n ∧ n < 0x080) ∨
    (0x180 ≤ n ∧ n < 0x1000) ∨ 0x3000 ≤ n) : regAt n = .reserved := by
  unfold regAt
  rcases h with ⟨h1, h2⟩ | ⟨h1, h2⟩ | ⟨h1, h2⟩ | h1 <;> simp (disch := omega) only [if_neg, if_pos]

/-- Settles O14: the register there is the reserved one, which reads 0 and has no write effect. -/
theorem reservedOffsetsReadZero : Obligations.ReservedOffsetsReadZero := by
  intro s off v hal hrange
  have hreg := regAt_reserved hrange
  constructor
  · rw [performAccess_read_aligned hal, hreg, answerRead_reliable (Or.inr rfl), readReg]
  · rw [performAccess_write_aligned hal, hreg]
    exact answerWrite_of_notMem (by decide) v s

/-! ### Accesses while a command is in flight -/

/-- What an access while `BUSY` = 1 may leave: the two sticky bits that only rise, the interrupt registers, the
bus response and the count of free values. -/
def BusyEffect (s t : State) : Prop :=
  ∃ (ovr lock : Bool) (en st : BitVec 2) (resp : Option BusResponse) (n : Nat),
    t = { s with cmdOvr := ovr, wlock := lock, irqEn := en, irqStat := st, response := resp, busyReads := n } ∧
      (s.cmdOvr = true → ovr = true) ∧ (s.wlock = true → lock = true)

theorem BusyEffect.answered {s t : State} (h : BusyEffect s t) (r : Option BusResponse) :
    BusyEffect s { t with response := r } := by
  obtain ⟨ovr, lock, en, st, _, n, rfl, hovr, hlock⟩ := h
  exact ⟨ovr, lock, en, st, r, n, rfl, hovr, hlock⟩

theorem busyEffect_answerRead (r : Reg) (s : State) : BusyEffect s (answerRead r s) := by
  unfold answerRead
  split
  · exact ⟨_, _, _, _, _, _, rfl, id, id⟩
  · exact ⟨_, _, _, _, _, _, rfl, id, id⟩

theorem busyEffect_writeReg {s : State} (hb : s.busy = true) (r : Reg) (v : Word) :
    BusyEffect s (writeReg r v s) := by
  have idle : ¬ s.busy = false := by simp [hb]
  rcases writeReg_cases r v s with h | h | ⟨h, -⟩ | ⟨h, -⟩ | ⟨h, -⟩ | h | ⟨h, -⟩ | h | h
  case inl => rw [h]; exact ⟨_, _, _, _, _, _, rfl, id, id⟩
  case inr.inl => rw [h]; exact ⟨_, true, _, _, _, _, rfl, id, fun _ => rfl⟩
  case inr.inr.inr.inr.inr.inl => rw [h]; exact ⟨true, _, _, _, _, _, rfl, fun _ => rfl, id⟩
  case inr.inr.inr.inr.inr.inr.inr.inl => rw [h]; exact ⟨_, _, _, _, _, _, rfl, id, id⟩
  case inr.inr.inr.inr.inr.inr.inr.inr => rw [h]; exact ⟨_, _, _, _, _, _, rfl, id, id⟩
  all_goals exact absurd h idle

theorem busyEffect_performAccess {s : State} (hb : s.busy = true) (a : Access) :
    BusyEffect s (performAccess a s) := by
  cases h : a.admitted with
  | false =>
    rw [performAccess_refused h]
    exact ⟨_, _, _, _, _, _, rfl, id, id⟩
  | true =>
    cases a with
    | read n off => exact performAccess_read h s ▸ busyEffect_answerRead _ s
    | write n off v => exact performAccess_write h s ▸ (busyEffect_writeReg hb _ v).answered _

/-- Settles O15: every register write that could do more needs `BUSY` = 0. -/
theorem busyAccessesLeaveTheRunAlone : Obligations.BusyAccessesLeaveTheRunAlone :=
  fun a s h => busyEffect_performAccess ((busy_eq_true_iff s).2 h) a

end Sys2Proof.Machine

/-! PROOF. The commands (41_session.md, 42_generation.md R87 to R90): what a command that completes can do, said
once (`exec_next`), and the rule that runs in each state (`RuleRuns`). The statements about single commands follow
from `exec_of_ruleRuns`. -/

namespace Sys2Proof.Machine

/-! ### The rule a command runs -/

/-- `RuleRuns i s out`: in `s` the command `i` passes the acceptance checks (60_exceptions.md R104), finds the
session it reads, and its rule gives `out`. `NOP` has no rule. -/
inductive RuleRuns : Instr → State → Except (Raise × State) State → Prop where
  | init {s : State} (hs : s.state = .idle) : RuleRuns .init s (initRule s)
  | getc {s : State} {k : ConstantBank} (c : ConstName) (hs : s.state = .ready ∨ s.state = .done)
      (hk : s.bank = some k) : RuleRuns (.getc c) s (.ok (setCval (bankGet k c) s))
  | eval {s : State} {a : ActiveConfig} {k : ConstantBank} (hs : s.state = .ready ∨ s.state = .done)
      (ha : s.act = some a) (hk : s.bank = some k) : RuleRuns .eval s (evalRule a k s)
  | step {s : State} {a : ActiveConfig} {k : ConstantBank} (hs : s.state = .ready)
      (ha : s.act = some a) (hk : s.bank = some k) : RuleRuns .step s (stepRule a k s)
  | run {s : State} {a : ActiveConfig} {k : ConstantBank} (hs : s.state = .ready)
      (ha : s.act = some a) (hk : s.bank = some k) : RuleRuns .run s (runRule a k s)
  | final {s : State} {a : ActiveConfig} (hs : s.state = .ready) (ha : s.act = some a) :
      RuleRuns .final s (finalRule a s)
  | clear {s : State} : RuleRuns .clear s (.ok (clearSession s))

theorem legalIn_open {s : State} (hs : s.state = .ready ∨ s.state = .done) :
    legalIn .eval s.state = true ∧ ∀ c, legalIn (.getc c) s.state = true := by
  rcases hs with h | h <;> rw [h] <;> exact ⟨rfl, fun _ => rfl⟩

theorem exec_of_ruleRuns {i : Instr} {s : State} {out : Except (Raise × State) State} (h : RuleRuns i s out) :
    exec i s = .next (finishCommand i out) := by
  cases h with
  | init hs => exact gate_legal (by rw [hs]; rfl) _
  | getc c hs hk => exact (gate_legal ((legalIn_open hs).2 c) _).trans (withBank_some hk _)
  | eval hs ha hk => exact (gate_legal (legalIn_open hs).1 _).trans (withSession_some ha hk _)
  | step hs ha hk => exact (gate_legal (by rw [hs]; rfl) _).trans (withSession_some ha hk _)
  | run hs ha hk => exact (gate_legal (by rw [hs]; rfl) _).trans (withSession_some ha hk _)
  | final hs ha => exact (gate_legal (by rw [hs]; rfl) _).trans (withActive_some ha _)
  | clear => exact gate_legal (i := .clear) (s := s) rfl _

theorem exec_nop (s : State) : exec .nop s = .next (completeQuiet s) :=
  gate_legal (i := .nop) (s := s) rfl _

/-- A command that is not legal in ERROR is ignored there (60_exceptions.md R103). -/
theorem exec_ignored {i : Instr} {s : State} (hl : legalIn i s.state = false) (he : s.state = .error) :
    exec i s = .next (ignoreCommand s) := by
  cases i <;> exact gate_error hl he _

/-- A command that is not legal in another state raises `SequenceError` (60_exceptions.md R104). -/
theorem exec_sequence {i : Instr} {s : State} (hl : legalIn i s.state = false) (he : s.state ≠ .error) :
    exec i s = .next (enterError (sequenceRaise s) (opcOf i) s) := by
  cases i <;> exact gate_sequence hl he _

theorem open_of_legalIn_eval {st : EngineState} (h : legalIn .eval st = true) : st = .ready ∨ st = .done := by
  cases st <;> simp_all [legalIn]

theorem ready_of_legalIn_step {st : EngineState} (h : legalIn .step st = true) : st = .ready := by
  cases st <;> simp_all [legalIn]

theorem idle_of_legalIn_init {st : EngineState} (h : legalIn .init st = true) : st = .idle := by
  cases st <;> simp_all [legalIn]

theorem withBank_next {s t : State} {body : ConstantBank → State} (h : withBank s body = .next t) :
    ∃ k, s.bank = some k ∧ t = body k := by
  cases hk : s.bank with
  | none => rw [withBank_none hk] at h; cases h
  | some k => rw [withBank_some hk] at h; cases h; exact ⟨k, rfl, rfl⟩

theorem withActive_next {s t : State} {body : ActiveConfig → State} (h : withActive s body = .next t) :
    ∃ a, s.act = some a ∧ t = body a := by
  cases ha : s.act with
  | none => rw [withActive_none ha] at h; cases h
  | some a => rw [withActive_some ha] at h; cases h; exact ⟨a, rfl, rfl⟩

/-- What a legal command that answers a next state did: `NOP`, or its rule. -/
theorem exec_legal_next {i : Instr} {s t : State} (hl : legalIn i s.state = true) (h : exec i s = .next t) :
    (i = .nop ∧ t = completeQuiet s) ∨ ∃ out, RuleRuns i s out ∧ t = finishCommand i out := by
  cases i with
  | nop =>
    rw [exec_nop] at h
    cases h
    exact Or.inl ⟨rfl, rfl⟩
  | init =>
    have hrun := RuleRuns.init (idle_of_legalIn_init hl)
    rw [exec_of_ruleRuns hrun] at h
    cases h
    exact Or.inr ⟨_, hrun, rfl⟩
  | getc c =>
    obtain ⟨k, hk, rfl⟩ := withBank_next ((gate_legal hl _).symm.trans h)
    exact Or.inr ⟨_, .getc c (open_of_legalIn_eval hl) hk, rfl⟩
  | eval =>
    obtain ⟨a, k, ha, hk, rfl⟩ := withSession_next ((gate_legal hl _).symm.trans h)
    exact Or.inr ⟨_, .eval (open_of_legalIn_eval hl) ha hk, rfl⟩
  | step =>
    obtain ⟨a, k, ha, hk, rfl⟩ := withSession_next ((gate_legal hl _).symm.trans h)
    exact Or.inr ⟨_, .step (ready_of_legalIn_step hl) ha hk, rfl⟩
  | run =>
    obtain ⟨a, k, ha, hk, rfl⟩ := withSession_next ((gate_legal hl _).symm.trans h)
    exact Or.inr ⟨_, .run (ready_of_legalIn_step hl) ha hk, rfl⟩
  | final =>
    obtain ⟨a, ha, rfl⟩ := withActive_next ((gate_legal hl _).symm.trans h)
    exact Or.inr ⟨_, .final (ready_of_legalIn_step hl) ha, rfl⟩
  | clear =>
    rw [exec_of_ruleRuns .clear] at h
    cases h
    exact Or.inr ⟨_, .clear, rfl⟩

/-- Everything a command that answers a next state can do: complete as `NOP`, be ignored in ERROR, raise
`SequenceError`, or run its rule. -/
theorem exec_next {i : Instr} {s t : State} (h : exec i s = .next t) :
    (i = .nop ∧ t = completeQuiet s) ∨ (s.state = .error ∧ t = ignoreCommand s) ∨
      (s.state ≠ .error ∧ t = enterError (sequenceRaise s) (opcOf i) s) ∨
      ∃ out, RuleRuns i s out ∧ t = finishCommand i out := by
  cases hl : legalIn i s.state with
  | true =>
    rcases exec_legal_next hl h with hnop | hrule
    · exact Or.inl hnop
    · exact Or.inr (Or.inr (Or.inr hrule))
  | false =>
    by_cases he : s.state = .error
    · rw [exec_ignored hl he] at h
      cases h
      exact Or.inr (Or.inl ⟨he, rfl⟩)
    · rw [exec_sequence hl he] at h
      cases h
      exact Or.inr (Or.inr (Or.inl ⟨he, rfl⟩))

/-! ### Words and indices -/

theorem opcOf_eq_opcode (i : Instr) : opcOf i = opcode i := by
  cases i with
  | getc c => cases c <;> rfl
  | _ => rfl

theorem ofInt_evalIndex (s : State) : BitVec.ofInt 32 (evalIndex s) = s.evalArg := BitVec.ofInt_toInt

theorem ofInt_roundIndex (s : State) : BitVec.ofInt 32 (roundIndex s) = s.nextIdx := by
  rw [roundIndex, BitVec.ofInt_natCast, BitVec.ofNat_toNat, BitVec.setWidth_eq]

/-! ### Sequences of operations that can raise -/

section Bind

variable {ε α β : Type}

theorem ok_bind (x : α) (f : α → Except ε β) : (Except.ok x >>= f) = f x := rfl

theorem error_bind (e : ε) (f : α → Except ε β) : (Except.error e >>= f) = .error e := rfl

theorem bind_eq_ok_iff {x : Except ε α} {f : α → Except ε β} {b : β} :
    x >>= f = .ok b ↔ ∃ a, x = .ok a ∧ f a = .ok b := by
  cases x <;> simp [ok_bind, error_bind]

theorem bind_eq_error_iff {x : Except ε α} {f : α → Except ε β} {e : ε} :
    x >>= f = .error e ↔ x = .error e ∨ ∃ a, x = .ok a ∧ f a = .error e := by
  cases x <;> simp [ok_bind, error_bind]

end Bind

/-! ### The evaluation, outcome by outcome (42_generation.md R86) -/

theorem evaluate_precision {a : ActiveConfig} (hp : a.p ≠ 100#8) (k : ConstantBank) (n : Int) :
    evaluate a k n = .error ⟨.precisionMismatch, 0#8, BitVec.ofInt 32 n⟩ := if_pos hp

theorem evaluate_index {a : ActiveConfig} (hp : a.p = 100#8) (k : ConstantBank) {n : Int} (hn : n ≤ 0) :
    evaluate a k n = .error ⟨.invalidRoundIndex, 0#8, BitVec.ofInt 32 n⟩ := by
  rw [evaluate, if_neg (not_not.2 hp), if_pos hn]

theorem evaluate_mixAndExtract {a : ActiveConfig} (hp : a.p = 100#8) (k : ConstantBank) {n : Int} (hn : 0 < n) :
    evaluate a k n = mixAndExtract a k n := by
  rw [evaluate, if_neg (not_not.2 hp), if_neg (not_le.2 hn)]

theorem mixAndExtract_mix_error {a : ActiveConfig} {k : ConstantBank} {n : Int} {err : ArithError}
    (h : mix a k n = .error err) : mixAndExtract a k n = .error (arithRaise n err) := by
  rw [mixAndExtract, h]
  rfl

theorem mixAndExtract_frac_error {a : ActiveConfig} {k : ConstantBank} {n : Int} {r : HPV} {err : ArithError}
    (h : mix a k n = .ok r) (hf : hpFrac a.b.toNat r = .error err) :
    mixAndExtract a k n = .error (arithRaise n err) := by
  have hbind : (mix a k n >>= extract a.pad a.b.toNat) = .error err := by
    rw [h, ok_bind, extract, hf]
    rfl
  rw [mixAndExtract, hbind]

theorem mixAndExtract_ok {a : ActiveConfig} {k : ConstantBank} {n : Int} {r f : HPV}
    (h : mix a k n = .ok r) (hf : hpFrac a.b.toNat r = .ok f) :
    mixAndExtract a k n = .ok ⟨r, hpFloor r, f, BitVec.ofNat 128 (scaleB a.b.toNat f),
      lenOf a.pad a.b.toNat (scaleB a.b.toNat f)⟩ := by
  have hbind : (mix a k n >>= extract a.pad a.b.toNat) = .ok ⟨r, hpFloor r, f,
      BitVec.ofNat 128 (scaleB a.b.toNat f), lenOf a.pad a.b.toNat (scaleB a.b.toNat f)⟩ := by
    rw [h, ok_bind, extract, hf]
    rfl
  rw [mixAndExtract, hbind]

/-- Settles O31: the checks in their order, then the outcome of mixing and of the extraction. -/
theorem evaluationIsMixThenExtract : Obligations.EvaluationIsMixThenExtract := by
  refine ⟨by decide, fun a k n => ⟨fun h => ?v2, fun h => ?v1, fun hp => evaluate_precision hp k n,
    fun hp hn => evaluate_index hp k hn, ?mixing, ?fraction, ?success⟩⟩
  case v2 => rw [mix, h]
  case v1 => rw [mix, h]
  case mixing =>
    intro hp hn err h
    exact (evaluate_mixAndExtract hp k hn).trans (mixAndExtract_mix_error h)
  case fraction =>
    intro hp hn r err h hf
    exact (evaluate_mixAndExtract hp k hn).trans (mixAndExtract_frac_error h hf)
  case success =>
    intro hp hn r f h hf
    exact (evaluate_mixAndExtract hp k hn).trans (mixAndExtract_ok h hf)

/-- Every error of an evaluation carries its index (60_exceptions.md R102). -/
theorem evaluate_error_idx {a : ActiveConfig} {k : ConstantBank} {n : Int} {e : Raise}
    (h : evaluate a k n = .error e) : e.idx = BitVec.ofInt 32 n := by
  by_cases hp : a.p = 100#8
  · by_cases hn : n ≤ 0
    · rw [evaluate_index hp k hn] at h
      cases h
      rfl
    · rw [evaluate_mixAndExtract hp k (not_le.1 hn), mixAndExtract] at h
      split at h
      · cases h
      · cases h
        rfl
  · rw [evaluate_precision hp] at h
    cases h
    rfl

/-! ### The rules, outcome by outcome -/

theorem evalRule_ok {a : ActiveConfig} {k : ConstantBank} {s : State} {r : EvalResult}
    (h : evaluate a k (evalIndex s) = .ok r) : evalRule a k s = .ok (publish (evalIndex s) r s) := by
  rw [evalRule, h]

theorem evalRule_error {a : ActiveConfig} {k : ConstantBank} {s : State} {e : Raise}
    (h : evaluate a k (evalIndex s) = .error e) : evalRule a k s = .error (e, s) := by
  rw [evalRule, h]

theorem oneRound_of_fits {a : ActiveConfig} {k : ConstantBank} {s : State} {r : EvalResult}
    (h : evaluate a k (roundIndex s) = .ok r) (hlen : s.bs.length + r.len ≤ 32768) :
    oneRound a k s = .ok (appendRound r (publish (roundIndex s) r s)) := by
  simp only [oneRound, h, if_neg (not_lt.2 hlen)]

theorem oneRound_of_error {a : ActiveConfig} {k : ConstantBank} {s : State} {e : Raise}
    (h : evaluate a k (roundIndex s) = .error e) : oneRound a k s = .error e := by
  simp only [oneRound, h]

theorem oneRound_of_overflow {a : ActiveConfig} {k : ConstantBank} {s : State} {r : EvalResult}
    (h : evaluate a k (roundIndex s) = .ok r) (hlen : 32768 < s.bs.length + r.len) :
    oneRound a k s = .error ⟨.bitstreamOverflow, 0#8, BitVec.ofInt 32 (roundIndex s)⟩ := by
  simp only [oneRound, h, if_pos hlen]

theorem runRounds_one_ok {a : ActiveConfig} {k : ConstantBank} {s t : State} (h : oneRound a k s = .ok t) :
    runRounds a k 1 s = .ok t := by
  simp only [runRounds, h]

theorem runRounds_one_error {a : ActiveConfig} {k : ConstantBank} {s : State} {e : Raise}
    (h : oneRound a k s = .error e) : runRounds a k 1 s = .error (e, s) := by
  simp only [runRounds, h]

theorem stepRule_no_rounds {a : ActiveConfig} {s : State} (h : a.rc.toNat ≤ s.roundsDone.toNat)
    (k : ConstantBank) : stepRule a k s = .error (sequenceRaise s, s) := if_pos h

theorem stepRule_rounds {a : ActiveConfig} {s : State} (h : s.roundsDone.toNat < a.rc.toNat)
    (k : ConstantBank) : stepRule a k s = runRounds a k 1 s := if_neg (not_le.2 h)

/-! ### The session commands -/

/-- Settles O37: `NOP` is legal in every state and has no rule. -/
theorem nopHasNoEffect : Obligations.NopHasNoEffect := exec_nop

/-- Settles O38: neither check of `INIT` refuses. -/
theorem initStartsARun : Obligations.InitStartsARun := by
  intro s hs hprec hlow hhigh
  have hrule : initRule s = .ok (startRun s) := by
    rw [initRule, if_neg (not_not.2 hprec), if_neg (by omega)]
  rw [exec_of_ruleRuns (.init hs), hrule]
  rfl

/-- Settles O39: the precision check comes first. -/
theorem initRefusesBadConfiguration : Obligations.InitRefusesBadConfiguration := by
  intro s hs failed
  rw [exec_of_ruleRuns (.init hs)]
  constructor
  · intro hprec
    rw [initRule, if_pos hprec]
    rfl
  · intro hprec hbits
    rw [initRule, if_neg (not_not.2 hprec), if_pos hbits]
    rfl

/-- Settles O40: the rule of `GETC` reads the bank entry its operand names. -/
theorem getcCopiesTheConstant : Obligations.GetcCopiesTheConstant := by
  intro s k hs hk c
  rw [exec_of_ruleRuns (.getc c hs hk)]
  cases c <;> rfl

/-- Settles O41: `CLEAR` is legal in every state. -/
theorem clearEndsTheRun : Obligations.ClearEndsTheRun := fun _ => exec_of_ruleRuns .clear

/-! ### `EVAL` -/

/-- Settles O42: the published index is `EVAL_ARG` itself. -/
theorem evalPublishesOneIndex : Obligations.EvalPublishesOneIndex := by
  intro s a k r hs ha hk hr
  rw [exec_of_ruleRuns (.eval hs ha hk), evalRule_ok hr, finishCommand_ok, publish, ofInt_evalIndex]
  rfl

theorem exec_eval_error {s : State} {a : ActiveConfig} {k : ConstantBank} {e : Raise}
    (hs : s.state = .ready ∨ s.state = .done) (ha : s.act = some a) (hk : s.bank = some k)
    (h : evaluate a k s.evalArg.toInt = .error e) :
    exec .eval s = .next (enterError ⟨e.code, e.detail, s.evalArg⟩ 3#8 s) := by
  have hidx : e.idx = s.evalArg := (evaluate_error_idx h).trans (ofInt_evalIndex s)
  rw [exec_of_ruleRuns (.eval hs ha hk), evalRule_error h, ← hidx]
  rfl

/-- Settles O43: the raise of the evaluation, with its index `EVAL_ARG`. -/
theorem failingEvalPublishesNothing : Obligations.FailingEvalPublishesNothing := by
  intro s a k hs ha hk
  refine ⟨fun e h => exec_eval_error hs ha hk h,
    fun hp hn => exec_eval_error hs ha hk (evaluate_index hp k hn), fun err h => ?arithmetic⟩
  case arithmetic =>
    rw [exec_eval_error hs ha hk h]
    cases err <;> rfl

/-! ### `STEP` and `FINAL` -/

/-- Settles O44: one round at `NEXT_IDX`, which is the published index. -/
theorem stepAppendsOneRound : Obligations.StepAppendsOneRound := by
  intro s a k r hs ha hk hleft hr hlen
  rw [exec_of_ruleRuns (.step hs ha hk), stepRule_rounds hleft, runRounds_one_ok (oneRound_of_fits hr hlen),
    finishCommand_ok, publish, ofInt_roundIndex]
  rfl

/-- Settles O45: the three raises, with the state as it was. -/
theorem failingStepKeepsCounters : Obligations.FailingStepKeepsCounters := by
  intro s a k hs ha hk failed
  rw [exec_of_ruleRuns (.step hs ha hk)]
  refine ⟨fun hdone => ?no_rounds, fun hleft e he => ?evaluation, fun hleft r hr hlen => ?overflow⟩
  case no_rounds =>
    rw [stepRule_no_rounds hdone, finishCommand_error, sequenceRaise, hs]
    rfl
  case evaluation =>
    have hidx : e.idx = s.nextIdx := (evaluate_error_idx he).trans (ofInt_roundIndex s)
    rw [stepRule_rounds hleft, runRounds_one_error (oneRound_of_error he), finishCommand_error, ← hidx]
    rfl
  case overflow =>
    rw [stepRule_rounds hleft, runRounds_one_error (oneRound_of_overflow hr hlen), finishCommand_error,
      ofInt_roundIndex]
    rfl

/-- Settles O48: `FINAL` compares `ROUNDS_DONE` with the latched round count. -/
theorem finalAggregatesAfterAllRounds : Obligations.FinalAggregatesAfterAllRounds := by
  intro s a hs ha
  rw [exec_of_ruleRuns (.final hs ha)]
  constructor
  · intro hdone
    rw [finalRule, if_neg (not_not.2 hdone)]
    rfl
  · intro hleft
    rw [finalRule, if_pos hleft, finishCommand_error, sequenceRaise, hs]
    rfl

/-! ### Refused and ignored commands -/

/-- Settles O50: illegal words by decoding, the others by the state check. -/
theorem refusedCommandsRaise : Obligations.RefusedCommandsRaise := by
  intro s raised
  refine ⟨fun w d hs hd => ?illegal, fun i hi => ?sequence⟩
  case illegal =>
    rw [runCommand_illegal hd, illegalWord, if_neg hs]
    rfl
  case sequence =>
    have hrefused : legalIn i s.state = false ∧ s.state ≠ .error := by
      rcases hi with ⟨rfl, hs | hs⟩ | ⟨rfl | ⟨c, rfl⟩, hs⟩ | ⟨rfl | rfl | rfl, hs | hs⟩ <;>
        rw [hs] <;> exact ⟨rfl, by decide⟩
    obtain ⟨hl, he⟩ := hrefused
    rw [exec_sequence hl he, opcOf_eq_opcode, sequenceRaise]
    cases s.state <;> rfl

/-- Settles O51: only `NOP` and `CLEAR` are legal in ERROR. -/
theorem errorStateIgnoresCommands : Obligations.ErrorStateIgnoresCommands := by
  intro s hs
  refine ⟨fun i hnop hclear => ?command, fun w d hd => ?illegal⟩
  case command =>
    have hl : legalIn i s.state = false := by
      rw [hs]
      cases i with
      | nop => exact absurd rfl hnop
      | clear => exact absurd rfl hclear
      | _ => rfl
    exact exec_ignored hl hs
  case illegal =>
    rw [runCommand_illegal hd, illegalWord, if_pos hs]
    rfl

/-! ### The step that runs a command -/

theorem step_complete {s : State} {w : Word} {i : Instr} {rest : List Input} (hw : s.inFlight = some w)
    (hd : decode w = .command i) (h : s.inputs = .complete :: rest) : step s = exec i { s with inputs := rest } := by
  rw [step_cons h, performInput, engineMove_some (w := w) (by exact hw), runCommand_command hd]

theorem step_alone {s : State} {w : Word} {i : Instr} (hw : s.inFlight = some w)
    (hd : decode w = .command i) (h : s.inputs = []) : step s = exec i s := by
  rw [step_nil h, engineMove_some hw, runCommand_command hd]

/-- The word `withFetchWord` places is the one it is given. -/
theorem withFetchWord_inFlight (s : State) (w : Word) : (s.withFetchWord 32 w.toNat).inFlight = some w := by
  rw [State.withFetchWord, placeCommand, Nat.mod_eq_of_lt w.isLt, BitVec.ofNat_toNat, BitVec.setWidth_eq]

/-- The engine's own move that answers a next state holds the state, or runs the command in flight. -/
theorem engineMove_next {s t : State} (h : engineMove s = .next t) :
    (s.inFlight = none ∧ t = s) ∨ ∃ w, s.inFlight = some w ∧ runCommand w s = .next t := by
  cases hflight : s.inFlight with
  | none =>
    rw [engineMove_none hflight] at h
    cases h
    exact Or.inl ⟨rfl, rfl⟩
  | some w => exact Or.inr ⟨w, rfl, (engineMove_some hflight).symm.trans h⟩

/-- Everything a step that answers a next state can be: an access, a reset, idling, or a command in flight. -/
theorem step_next {s t : State} (h : step s = .next t) :
    (∃ a rest, t = performAccess a { s with inputs := rest }) ∨
      (∃ rest, s.inputs = .rst :: rest ∧ t = hardReset { s with inputs := rest }) ∨
      (∃ rest, s.inFlight = none ∧ t = { s with inputs := rest }) ∨
      (∃ w rest, s.inFlight = some w ∧ runCommand w { s with inputs := rest } = .next t) := by
  rcases step_cases s with ⟨a, rest, -, heq⟩ | ⟨rest, hin, heq⟩ | ⟨rest, -, heq⟩ <;> rw [heq] at h
  · cases h
    exact Or.inl ⟨a, rest, rfl⟩
  · cases h
    exact Or.inr (Or.inl ⟨rest, hin, rfl⟩)
  · rcases engineMove_next h with ⟨hflight, ht⟩ | ⟨w, hflight, hrun⟩
    · exact Or.inr (Or.inr (Or.inl ⟨rest, hflight, ht⟩))
    · exact Or.inr (Or.inr (Or.inr ⟨w, rest, hflight, hrun⟩))

/-- Settles O55: the command in flight decodes to the one that is executed. -/
theorem stepRunsTheDecodedCommand : Obligations.StepRunsTheDecodedCommand := by
  refine ⟨fun s w i rest hw hd => ⟨step_complete hw hd, step_alone hw hd⟩, fun s i => ?placed⟩
  case placed =>
    have hw := withFetchWord_inFlight s (encode i)
    rw [step_complete hw (decode_encode i) (rest := s.inputs) rfl, ← hw]
    rfl

end Sys2Proof.Machine

/-! PROOF. The bitstream of a run (42_generation.md R83 to R85, R93, R94): the aggregate gives it back, and its
length. -/

namespace Sys2Proof.Machine

/-! ### The aggregate as an integer -/

/-- The integer that hexadecimal digits denote, the first one most significant. -/
def hexValue (digits : List (BitVec 4)) : Nat := digits.foldl (fun v x => 16 * v + x.toNat) 0

theorem hexValue_eq_ofDigits (digits : List (BitVec 4)) :
    hexValue digits = Nat.ofDigits 16 (digits.map BitVec.toNat).reverse := by
  rw [← foldl_eq_ofDigits_reverse, List.foldl_map, hexValue]

theorem hexValue_cons (x : BitVec 4) (digits : List (BitVec 4)) :
    hexValue (x :: digits) = hexValue digits + x.toNat * 16 ^ digits.length := by
  simp [hexValue_eq_ofDigits, Nat.ofDigits_append, Nat.mul_comm]

/-- One digit more puts the next higher digit in front. -/
theorem hexDigits_succ (H v : Nat) : hexDigits (H + 1) v = BitVec.ofNat 4 (v >>> (4 * H)) :: hexDigits H v := by
  simp [hexDigits, List.range_succ_eq_map, Nat.sub_sub, Nat.add_comm]

/-- `H` digits denote the `H` low hexadecimal digits of the value. -/
theorem hexValue_hexDigits (H v : Nat) : hexValue (hexDigits H v) = v % 16 ^ H := by
  induction H with
  | zero => simp [hexDigits, hexValue, Nat.mod_one]
  | succ H ih =>
    rw [hexDigits_succ, hexValue_cons, ih, hexDigits_length, Nat.mod_pow_succ, BitVec.toNat_ofNat,
      Nat.shiftRight_eq_div_pow, pow_mul, Nat.mul_comm (16 ^ H)]
    rfl

theorem lt_pow_hexDigitCount (v : Nat) : v < 16 ^ hexDigitCount v := by
  rcases eq_or_ne v 0 with rfl | hv
  · decide
  · have hpow : 16 ^ hexDigitCount v = 2 ^ (4 * hexDigitCount v) := (pow_mul 2 4 _).symm
    rw [hpow, ← Nat.log2_lt hv, hexDigitCount_of_ne_zero hv]
    omega

/-- The digits of the aggregate denote the integer of the bitstream (42_generation.md R85). -/
theorem hexValue_aggregateDigits (bits : List Bool) : hexValue (aggregateDigits bits) = bitsValue bits := by
  rcases eq_or_ne bits [] with rfl | hne
  · rfl
  · rw [aggregateDigits_of_ne_nil hne, hexValue_hexDigits, Nat.mod_eq_of_lt (lt_pow_hexDigitCount _)]

/-- The integer of a stream has the stream's bits, its last bit lowest. -/
theorem testBit_bitsValue (bits : List Bool) {i : Nat} (hi : i < bits.length) :
    (bitsValue bits).testBit (bits.length - 1 - i) = bits[i] := by
  have hdigit : ∀ x ∈ (bits.map Bool.toNat).reverse, x < 2 := by
    intro x hx
    obtain ⟨b, -, rfl⟩ := List.mem_map.1 (List.mem_reverse.1 hx)
    exact Bool.toNat_lt b
  have hplace : bits.length - 1 - (bits.length - 1 - i) = i := by omega
  rw [Nat.testBit_eq_decide_div_mod_eq, bitsValue_eq_ofDigits,
    ofDigits_digit hdigit (by simp; omega)]
  cases h : bits[i] <;> simp [hplace, h]

/-- Settles O35: the digits denote the integer of the stream, whose bits are the stream. -/
theorem hexRoundTrip : Obligations.HexRoundTrip := by
  intro bits V
  have hV : V = bitsValue bits := hexValue_aggregateDigits bits
  rw [hV]
  apply List.ext_getElem (by simp)
  intro i _ hi
  rw [List.getElem_map, List.getElem_range, testBit_bitsValue bits hi]

/-! ### The stream of the first rounds -/

section Stream

variable {a : ActiveConfig} {k : ConstantBank}

theorem roundDigits_of_ok {n : Nat} {r : EvalResult} (h : evaluate a k n = .ok r) :
    roundDigits a k n = some (digitString r.len r.scaled) := by
  rw [roundDigits, h]

theorem roundDigits_eq_some {n : Nat} {d : List Bool} (h : roundDigits a k n = some d) :
    ∃ r, evaluate a k n = .ok r ∧ d = digitString r.len r.scaled := by
  cases hr : evaluate a k n with
  | error e => simp [roundDigits, hr] at h
  | ok r =>
    rw [roundDigits_of_ok hr, Option.some.injEq] at h
    exact ⟨r, rfl, h.symm⟩

/-- The stream of one round more. -/
theorem streamOf_succ_of_ok {m : Nat} {p : List Bool} {r : EvalResult} (hp : streamOf a k m = some p)
    (hr : evaluate a k ((m + 1 : Nat) : Int) = .ok r) :
    streamOf a k (m + 1) = some (p ++ digitString r.len r.scaled) := by
  rw [streamOf, hp, roundDigits_of_ok hr]

theorem streamOf_succ_eq_some {m : Nat} {b : List Bool} (h : streamOf a k (m + 1) = some b) :
    ∃ p r, streamOf a k m = some p ∧ evaluate a k ((m + 1 : Nat) : Int) = .ok r ∧
      b = p ++ digitString r.len r.scaled := by
  rw [streamOf] at h
  cases hp : streamOf a k m with
  | none => simp [hp] at h
  | some p =>
    cases hd : roundDigits a k (m + 1) with
    | none => simp [hp, hd] at h
    | some d =>
      simp only [hp, hd, Option.some.injEq] at h
      obtain ⟨r, hr, rfl⟩ := roundDigits_eq_some hd
      exact ⟨p, r, rfl, hr, h.symm⟩

/-- Fewer rounds give the beginning of the stream. -/
theorem streamOf_mono {m n : Nat} (hmn : m ≤ n) {b : List Bool} (h : streamOf a k n = some b) :
    ∃ p, streamOf a k m = some p ∧ p.length ≤ b.length := by
  induction n, hmn using Nat.le_induction generalizing b with
  | base => exact ⟨b, h, le_rfl⟩
  | succ n _ ih =>
    obtain ⟨q, r, hq, -, rfl⟩ := streamOf_succ_eq_some h
    obtain ⟨p, hp, hlen⟩ := ih hq
    exact ⟨p, hp, hlen.trans (by simp)⟩

/-- With `PAD` = 1 every round has `B` digits. -/
theorem evaluate_len_fixed {n : Int} {r : EvalResult} (hpad : a.pad = .fixed) (h : evaluate a k n = .ok r) :
    r.len = a.b.toNat := by
  obtain ⟨-, -, -, hx⟩ := evaluate_ok h
  obtain ⟨-, -, -, -, hlen⟩ := extract_ok hx
  rw [hlen, hpad, lenOf]

end Stream

/-- Settles O36, by induction on the rounds. -/
theorem streamLengthLaws : Obligations.StreamLengthLaws := by
  intro a k m b hB h
  induction m generalizing b with
  | zero =>
    rw [streamOf, Option.some.injEq] at h
    simp [← h]
  | succ m ih =>
    obtain ⟨p, r, hp, hr, rfl⟩ := streamOf_succ_eq_some h
    obtain ⟨hfixed, hmost, hleast⟩ := ih p hp
    obtain ⟨-, -, -, hlow, hhigh⟩ := evaluate_bounds hr hB
    rw [List.length_append, digitString_length, Nat.succ_mul]
    refine ⟨fun hpad => ?_, by omega, by omega⟩
    rw [hfixed hpad, evaluate_len_fixed hpad hr]

end Sys2Proof.Machine

/-! PROOF. The invariant of the engine (Safety.lean): reset meets it, and every access and every command keeps it.
What it says of a run gives the statements about steps, runs and reachable states. -/

namespace Sys2Proof.Machine

/-! ### The parts of the invariant -/

theorem stateInv_idle {s : State} (h : s.state = .idle) :
    stateInv s ↔ sessionClosed s ∧ noError s ∧ s.roundsDone = 0#32 ∧ s.nextIdx = 0#32 ∧ s.bs = [] ∧ s.hx = [] := by
  simp only [stateInv, h]

theorem stateInv_ready {s : State} (h : s.state = .ready) :
    stateInv s ↔ sessionOpen s ∧ noError s ∧ runProgress s ∧ s.hx = [] := by
  simp only [stateInv, h]

theorem stateInv_done {s : State} (h : s.state = .done) :
    stateInv s ↔ sessionOpen s ∧ noError s ∧ runProgress s ∧ s.roundsDone.toNat = s.roundCount.toNat ∧
      s.hx = aggregateDigits s.bs := by
  simp only [stateInv, h]

theorem stateInv_error {s : State} (h : s.state = .error) :
    stateInv s ↔ (sessionOpen s ∨ sessionClosed s) ∧ 1 ≤ s.errCode.toNat ∧ s.errCode.toNat ≤ 7 ∧ s.bs = [] ∧
      s.hx = [] := by
  simp only [stateInv, h]

/-- In every state the session is open or closed. -/
theorem session_of_stateInv {s : State} (h : stateInv s) : sessionOpen s ∨ sessionClosed s := by
  cases hs : s.state with
  | idle => exact Or.inr ((stateInv_idle hs).1 h).1
  | ready => exact Or.inl ((stateInv_ready hs).1 h).1
  | done => exact Or.inl ((stateInv_done hs).1 h).1
  | error => exact ((stateInv_error hs).1 h).1

/-- READY and DONE have an open session, no error and consistent counters. -/
theorem run_of_stateInv {s : State} (h : stateInv s) (hs : s.state = .ready ∨ s.state = .done) :
    sessionOpen s ∧ noError s ∧ runProgress s := by
  rcases hs with hs | hs
  · obtain ⟨hopen, herr, hrun, -⟩ := (stateInv_ready hs).1 h
    exact ⟨hopen, herr, hrun⟩
  · obtain ⟨hopen, herr, hrun, -⟩ := (stateInv_done hs).1 h
    exact ⟨hopen, herr, hrun⟩

/-- Without a session the result registers and `CVAL` are clear. -/
theorem clear_of_sessionClosed {s : State} (hclosed : sessionClosed s) (hres : resultInv s) (hcval : cvalInv s) :
    (s.mixres = none ∧ s.intpart = none ∧ s.fracp = none ∧ s.lastIdx = 0#32 ∧ s.lastLen = 0#32 ∧
      s.scaled = 0#128) ∧ s.cval = none := by
  obtain ⟨hact, hbank⟩ := hclosed
  constructor
  · rcases hres with h | ⟨a, -, -, -, -, ha, -⟩
    · exact h
    · rw [hact] at ha
      cases ha
  · rcases hcval with h | ⟨k, -, hk, -⟩
    · exact h
    · rw [hbank] at hk
      cases hk

theorem act_of_sessionOpen {s : State} (h : sessionOpen s) : s.act = some (latchConfig s) := h.1

theorem bank_of_sessionOpen {s : State} (h : sessionOpen s) : s.bank = some (rom s.config.cmode) := h.2.2

/-- `ACT` of an open session has a width of 1 to 128 bits. -/
theorem width_of_sessionOpen {s : State} (h : sessionOpen s) :
    1 ≤ (latchConfig s).b.toNat ∧ (latchConfig s).b.toNat ≤ 128 := by
  obtain ⟨-, hlegal, -⟩ := h
  simp only [ActiveConfig.legal, Bool.and_eq_true, decide_eq_true_eq] at hlegal
  exact ⟨hlegal.1.2, hlegal.2⟩

/-! ### Reset -/

/-- Settles O56: every clause of IDLE holds of the reset values. -/
theorem resetSatisfiesTheInvariant : Obligations.ResetSatisfiesTheInvariant := by
  intro inputs
  refine ⟨⟨⟨rfl, rfl⟩, ⟨rfl, rfl, rfl, rfl⟩, rfl, rfl, rfl, rfl⟩, rfl, Or.inl ?_, Or.inl rfl, fun _ => Or.inl rfl⟩
  exact ⟨rfl, rfl, rfl, rfl, rfl, rfl⟩

/-- The fields the invariant does not speak of. -/
theorem inv_bookkeeping {s : State} (h : Inv s) (ev : Word) (ovr lock ign : Bool) (en st : BitVec 2)
    (ins : List Input) (resp : Option BusResponse) (n : Nat) :
    Inv { s with
      evalArg := ev, cmdOvr := ovr, wlock := lock, cmdIgn := ign, irqEn := en, irqStat := st, inputs := ins,
      response := resp, busyReads := n } := h

theorem inv_hardReset (s : State) : Inv (hardReset s) :=
  inv_bookkeeping (resetSatisfiesTheInvariant s.inputs) _ _ _ _ _ _ _ _ _

/-! ### Bus accesses -/

/-- In IDLE neither `CONFIG` nor `ROUND_COUNT` is latched yet. -/
theorem inv_configured {s : State} (h : Inv s) (hs : s.state = .idle) (c : ConfigReg) (rc : BitVec 16) :
    Inv { s with config := c, roundCount := rc } := by
  obtain ⟨hstate, hwf, hres, hcval, hflight⟩ := h
  exact ⟨(stateInv_idle (s := { s with config := c, roundCount := rc }) hs).2 ((stateInv_idle hs).1 hstate), hwf,
    hres, hcval, hflight⟩

/-- In ERROR only the `CLEAR` word is accepted (60_exceptions.md R104). -/
theorem inv_acceptCommand {s : State} (h : Inv s) (w : Word) : Inv (acceptCommand w s) := by
  obtain ⟨hstate, hwf, hres, hcval, hflight⟩ := h
  unfold acceptCommand
  split_ifs with herror hclear hnop
  · exact ⟨hstate, hwf, hres, hcval, fun _ => Or.inr (congrArg some hclear)⟩
  · exact ⟨hstate, hwf, hres, hcval, hflight⟩
  · exact ⟨hstate, hwf, hres, hcval, hflight⟩
  · exact ⟨hstate, hwf, hres, hcval, fun he => absurd he herror⟩

theorem inv_writeReg {s : State} (h : Inv s) (r : Reg) (v : Word) : Inv (writeReg r v s) := by
  rcases writeReg_cases r v s with
    g | g | ⟨-, hs, g⟩ | ⟨-, hs, g⟩ | ⟨-, g⟩ | g | ⟨-, g⟩ | g | g <;> rw [g]
  case inr.inr.inl => exact inv_configured h hs _ _
  case inr.inr.inr.inl => exact inv_configured h hs _ _
  case inr.inr.inr.inr.inr.inr.inl => exact inv_acceptCommand h v
  all_goals exact h

theorem inv_answerRead {s : State} (h : Inv s) (r : Reg) : Inv (answerRead r s) := by
  unfold answerRead
  split
  · exact h
  · exact h

theorem inv_performAccess {s : State} (h : Inv s) (a : Access) : Inv (performAccess a s) := by
  cases hadm : a.admitted with
  | false => exact performAccess_refused hadm s ▸ h
  | true =>
    cases a with
    | read n off => exact performAccess_read hadm s ▸ inv_answerRead h _
    | write n off v =>
      rw [performAccess_write hadm]
      exact inv_writeReg h (regAt off.toNat) v

/-! ### The end of a command -/

/-- The invariant but for the command in flight, which a completion takes away. -/
structure Sound (s : State) : Prop where
  state : stateInv s
  memory : Memory.wf s = true
  results : resultInv s
  cval : cvalInv s

theorem inv_iff (s : State) : Inv s ↔ Sound s ∧ flightInv s :=
  ⟨fun ⟨hstate, hwf, hres, hcval, hflight⟩ => ⟨⟨hstate, hwf, hres, hcval⟩, hflight⟩,
    fun ⟨⟨hstate, hwf, hres, hcval⟩, hflight⟩ => ⟨hstate, hwf, hres, hcval, hflight⟩⟩

theorem Sound.completeQuiet {s : State} (h : Sound s) : Inv (completeQuiet s) :=
  ⟨h.state, h.memory, h.results, h.cval, fun _ => Or.inl rfl⟩

theorem Sound.completeDone {s : State} (h : Sound s) : Inv (completeDone s) :=
  ⟨h.state, h.memory, h.results, h.cval, fun _ => Or.inl rfl⟩

theorem Sound.ignoreCommand {s : State} (h : Sound s) : Inv (ignoreCommand s) :=
  ⟨h.state, h.memory, h.results, h.cval, fun _ => Or.inl rfl⟩

theorem errorCode_range (c : ErrorCode) : 1 ≤ c.code.toNat ∧ c.code.toNat ≤ 7 := by
  cases c <;> decide

/-- What an error entry keeps of the state it comes from (60_exceptions.md R102): the session, the result
registers and `CVAL`. -/
structure Kept (s : State) : Prop where
  session : sessionOpen s ∨ sessionClosed s
  results : resultInv s
  cval : cvalInv s

theorem Sound.kept {s : State} (h : Sound s) : Kept s := ⟨session_of_stateInv h.state, h.results, h.cval⟩

theorem Kept.enterError {s : State} (h : Kept s) (r : Raise) (opc : BitVec 8) : Inv (enterError r opc s) := by
  obtain ⟨hlow, hhigh⟩ := errorCode_range r.code
  exact ⟨(stateInv_error rfl).2 ⟨h.session, hlow, hhigh, rfl, rfl⟩, rfl, h.results, h.cval,
    fun _ => Or.inl rfl⟩

/-- What the invariant needs of the outcome of a command's rule. -/
def SoundOutcome : Except (Raise × State) State → Prop
  | .ok t => Sound t
  | .error (_, t) => Kept t

theorem SoundOutcome.finishCommand {out : Except (Raise × State) State} (h : SoundOutcome out) (i : Instr) :
    Inv (finishCommand i out) := by
  cases out with
  | ok t => exact Sound.completeDone h
  | error p => exact Kept.enterError h p.1 (opcOf i)

/-! ### The rules without rounds -/

theorem soundOutcome_initRule {s : State} (h : Sound s) (hs : s.state = .idle) : SoundOutcome (initRule s) := by
  obtain ⟨hclosed, herr, -⟩ := (stateInv_idle hs).1 h.state
  obtain ⟨hres, hcval⟩ := clear_of_sessionClosed hclosed h.results h.cval
  unfold initRule
  split_ifs with hprec hbits
  · exact h.kept
  · exact h.kept
  · have hlegal : (latchConfig s).legal = true := by
      simp only [ActiveConfig.legal, latchConfig, Bool.and_eq_true, beq_iff_eq]
      exact ⟨⟨not_not.1 hprec, decide_eq_true (by omega)⟩, decide_eq_true (by omega)⟩
    exact ⟨(stateInv_ready rfl).2 ⟨⟨rfl, hlegal, rfl⟩, herr, ⟨rfl, Nat.zero_le _, rfl⟩, rfl⟩, rfl, Or.inl hres,
      Or.inl hcval⟩

theorem sound_setCval {s : State} {k : ConstantBank} (h : Sound s) (hk : s.bank = some k) (c : ConstName) :
    Sound (setCval (bankGet k c) s) :=
  ⟨h.state, h.memory, h.results, Or.inr ⟨k, c, hk, rfl⟩⟩

theorem sound_clearSession (s : State) : Sound (clearSession s) :=
  ⟨(stateInv_idle rfl).2 ⟨⟨rfl, rfl⟩, ⟨rfl, rfl, rfl, rfl⟩, rfl, rfl, rfl, rfl⟩, rfl,
    Or.inl ⟨rfl, rfl, rfl, rfl, rfl, rfl⟩, Or.inl rfl⟩

/-- Publishing an evaluation of an index that `LAST_IDX` can hold makes the result registers its results. -/
theorem resultInv_publish {s : State} {a : ActiveConfig} {k : ConstantBank} {n : Int} {r : EvalResult}
    (ha : s.act = some a) (hk : s.bank = some k) (hb : 1 ≤ a.b.toNat) (hn : (BitVec.ofInt 32 n).toInt = n)
    (hr : evaluate a k n = .ok r) : resultInv (publish n r s) := by
  obtain ⟨-, -, -, -, hlen⟩ := evaluate_bounds hr hb
  have hword : (BitVec.ofNat 32 r.len).toNat = r.len := by
    rw [BitVec.toNat_ofNat, Nat.mod_eq_of_lt (by omega)]
  refine Or.inr ⟨a, k, r.mixres, r.intpart, r.fracp, ha, hk, rfl, rfl, rfl, ?_⟩
  rw [publish_lastIdx, publish_lastLen, publish_scaled, hn, hword, hr]

theorem soundOutcome_evalRule {s : State} {a : ActiveConfig} {k : ConstantBank} (h : Sound s)
    (hs : s.state = .ready ∨ s.state = .done) (ha : s.act = some a) (hk : s.bank = some k) :
    SoundOutcome (evalRule a k s) := by
  obtain ⟨hopen, -, -⟩ := run_of_stateInv h.state hs
  obtain rfl : latchConfig s = a := Option.some.inj ((act_of_sessionOpen hopen).symm.trans ha)
  cases hr : evaluate (latchConfig s) k (evalIndex s) with
  | error e => exact evalRule_error hr ▸ h.kept
  | ok r =>
    have hidx : (BitVec.ofInt 32 (evalIndex s)).toInt = evalIndex s := by rw [ofInt_evalIndex, evalIndex]
    rw [evalRule_ok hr]
    exact ⟨h.state, h.memory, resultInv_publish ha hk (width_of_sessionOpen hopen).1 hidx hr, h.cval⟩

/-! ### Rounds -/

/-- A sound READY state with at least `m` rounds left, of which `N` will then be done, under the session `a`,
`k`. -/
structure Running (a : ActiveConfig) (k : ConstantBank) (N m : Nat) (s : State) : Prop where
  sound : Sound s
  ready : s.state = .ready
  act : s.act = some a
  bank : s.bank = some k
  rounds : s.roundsDone.toNat + m = N
  limit : N ≤ a.rc.toNat

section Rounds

variable {a : ActiveConfig} {k : ConstantBank} {N m : Nat} {s t : State}

theorem Running.open (h : Running a k N m s) : sessionOpen s ∧ noError s ∧ runProgress s ∧ s.hx = [] :=
  (stateInv_ready h.ready).1 h.sound.state

theorem Running.latch (h : Running a k N m s) : latchConfig s = a ∧ rom s.config.cmode = k :=
  ⟨Option.some.inj ((act_of_sessionOpen h.open.1).symm.trans h.act),
    Option.some.inj ((bank_of_sessionOpen h.open.1).symm.trans h.bank)⟩

/-- The counters of a run stay far below the width of their registers. -/
theorem Running.bounds (h : Running a k N m s) :
    s.nextIdx.toNat = s.roundsDone.toNat + 1 ∧ s.roundsDone.toNat + m = N ∧ N < 65536 := by
  obtain ⟨-, -, ⟨hnext, -, -⟩, -⟩ := h.open
  exact ⟨hnext, h.rounds, h.limit.trans_lt a.rc.isLt⟩

theorem Running.nextIdx_toInt (h : Running a k N (m + 1) s) :
    (BitVec.ofInt 32 (roundIndex s)).toInt = roundIndex s := by
  obtain ⟨hnext, hrounds, hN⟩ := h.bounds
  rw [ofInt_roundIndex, roundIndex]
  exact BitVec.toInt_eq_toNat_of_lt (by omega)

/-- One successful round leaves one round fewer. -/
theorem Running.oneRound (h : Running a k N (m + 1) s) (hr : oneRound a k s = .ok t) : Running a k N m t := by
  obtain ⟨hopen, herr, ⟨hnext, hlimit, hstream⟩, hhx⟩ := h.open
  obtain ⟨-, hrounds, hN⟩ := h.bounds
  obtain ⟨hlatch, hrom⟩ := h.latch
  obtain ⟨r, heval, -, rfl⟩ := oneRound_ok hr
  have hdone : (s.roundsDone + 1#32).toNat = s.roundsDone.toNat + 1 := by
    rw [BitVec.toNat_add, BitVec.toNat_ofNat]
    omega
  have hnext' : (s.nextIdx + 1#32).toNat = s.roundsDone.toNat + 1 + 1 := by
    rw [BitVec.toNat_add, BitVec.toNat_ofNat]
    omega
  have hrc : a.rc.toNat = s.roundCount.toNat := by rw [← hlatch, latchConfig]
  have hindex : evaluate (latchConfig s) (rom s.config.cmode) ((s.roundsDone.toNat + 1 : Nat) : Int) = .ok r := by
    rw [hlatch, hrom, ← hnext]
    exact heval
  have hprogress : runProgress (appendRound r (publish (roundIndex s) r s)) := by
    refine ⟨hnext'.trans (congrArg (· + 1) hdone.symm), ?_, ?_⟩
    · rw [appendRound_roundsDone, publish_roundsDone, hdone]
      exact (by omega : s.roundsDone.toNat + 1 ≤ N).trans (h.limit.trans_eq hrc)
    · rw [appendRound_roundsDone, publish_roundsDone, hdone]
      exact streamOf_succ_of_ok hstream hindex
  have hwidth : 1 ≤ a.b.toNat := hlatch ▸ (width_of_sessionOpen hopen).1
  have hstate : stateInv (appendRound r (publish (roundIndex s) r s)) :=
    (stateInv_ready (s := appendRound r (publish (roundIndex s) r s)) h.ready).2 ⟨hopen, herr, hprogress, hhx⟩
  refine ⟨⟨hstate, wf_oneRound h.sound.memory hr, resultInv_publish h.act h.bank hwidth h.nextIdx_toInt heval,
    h.sound.cval⟩, h.ready, h.act, h.bank, ?_, h.limit⟩
  rw [appendRound_roundsDone, publish_roundsDone, hdone]
  omega

/-- The loop of rounds ends with all `N` done, or in a round that fails. -/
theorem Running.runRounds (h : Running a k N m s) :
    match runRounds a k m s with
    | .ok t => Running a k N 0 t
    | .error (e, t) => ∃ j, Running a k N (j + 1) t ∧ Machine.oneRound a k t = .error e :=
  runRounds_induct (P := Running a k N) (fun _ _ _ hs hr => hs.oneRound hr) m s h

theorem Running.soundOutcome (h : Running a k N m s) : SoundOutcome (Machine.runRounds a k m s) := by
  have hloop := h.runRounds
  cases hrun : Machine.runRounds a k m s with
  | ok t =>
    rw [hrun] at hloop
    exact hloop.sound
  | error p =>
    rw [hrun] at hloop
    obtain ⟨j, hj, -⟩ := hloop
    exact hj.sound.kept

/-- Aggregating a run whose rounds are all done ends it in DONE (42_generation.md R85). -/
theorem Running.aggregate (h : Running a k N 0 s) (hN : N = a.rc.toNat) : Sound (aggregate s) := by
  obtain ⟨hopen, herr, hprogress, -⟩ := h.open
  have hall : s.roundsDone.toNat = s.roundCount.toNat := by
    have hrounds := h.rounds
    rw [Nat.add_zero, hN, ← h.latch.1] at hrounds
    exact hrounds
  exact ⟨(stateInv_done rfl).2 ⟨hopen, herr, hprogress, hall, rfl⟩, wf_aggregate h.sound.memory, h.sound.results,
    h.sound.cval⟩

end Rounds

/-- The start of the loop of rounds in a sound READY state. -/
theorem Running.start {s : State} {a : ActiveConfig} {k : ConstantBank} (h : Sound s) (hs : s.state = .ready)
    (ha : s.act = some a) (hk : s.bank = some k) :
    s.roundsDone.toNat ≤ a.rc.toNat ∧
      ∀ m, s.roundsDone.toNat + m ≤ a.rc.toNat → Running a k (s.roundsDone.toNat + m) m s := by
  obtain ⟨hopen, -, ⟨-, hlimit, -⟩, -⟩ := (stateInv_ready hs).1 h.state
  obtain rfl : latchConfig s = a := Option.some.inj ((act_of_sessionOpen hopen).symm.trans ha)
  exact ⟨hlimit, fun m hm => ⟨h, hs, ha, hk, rfl, hm⟩⟩

theorem soundOutcome_stepRule {s : State} {a : ActiveConfig} {k : ConstantBank} (h : Sound s)
    (hs : s.state = .ready) (ha : s.act = some a) (hk : s.bank = some k) : SoundOutcome (stepRule a k s) := by
  rcases le_or_gt a.rc.toNat s.roundsDone.toNat with hdone | hleft
  · rw [stepRule_no_rounds hdone]
    exact h.kept
  · rw [stepRule_rounds hleft]
    exact ((Running.start h hs ha hk).2 1 hleft).soundOutcome

theorem soundOutcome_runRule {s : State} {a : ActiveConfig} {k : ConstantBank} (h : Sound s)
    (hs : s.state = .ready) (ha : s.act = some a) (hk : s.bank = some k) : SoundOutcome (runRule a k s) := by
  obtain ⟨hlimit, hstart⟩ := Running.start h hs ha hk
  have hloop := (hstart (a.rc.toNat - s.roundsDone.toNat) (by omega)).runRounds
  unfold runRule
  cases hrun : runRounds a k (a.rc.toNat - s.roundsDone.toNat) s with
  | ok t =>
    rw [hrun] at hloop
    exact hloop.aggregate (by omega)
  | error p =>
    rw [hrun] at hloop
    obtain ⟨j, hj, -⟩ := hloop
    exact hj.sound.kept

theorem soundOutcome_finalRule {s : State} {a : ActiveConfig} (h : Sound s) (hs : s.state = .ready)
    (ha : s.act = some a) : SoundOutcome (finalRule a s) := by
  unfold finalRule
  split_ifs with hleft
  · exact h.kept
  · obtain ⟨hopen, -⟩ := (stateInv_ready hs).1 h.state
    obtain ⟨hlimit, hstart⟩ := Running.start h hs ha (bank_of_sessionOpen hopen)
    exact (hstart 0 hlimit).aggregate (not_not.1 hleft)

/-! ### Every command, every step -/

/-- The rule of every command keeps the invariant. -/
theorem soundOutcome_of_ruleRuns {i : Instr} {s : State} {out : Except (Raise × State) State} (h : Sound s)
    (hrule : RuleRuns i s out) : SoundOutcome out := by
  cases hrule with
  | init hs => exact soundOutcome_initRule h hs
  | getc c hs hk => exact sound_setCval h hk c
  | eval hs ha hk => exact soundOutcome_evalRule h hs ha hk
  | step hs ha hk => exact soundOutcome_stepRule h hs ha hk
  | run hs ha hk => exact soundOutcome_runRule h hs ha hk
  | final hs ha => exact soundOutcome_finalRule h hs ha
  | clear => exact sound_clearSession s

theorem inv_exec {i : Instr} {s t : State} (h : Sound s) (hexec : exec i s = .next t) : Inv t := by
  rcases exec_next hexec with ⟨-, rfl⟩ | ⟨-, rfl⟩ | ⟨-, rfl⟩ | ⟨out, hrule, rfl⟩
  · exact h.completeQuiet
  · exact h.ignoreCommand
  · exact h.kept.enterError _ _
  · exact (soundOutcome_of_ruleRuns h hrule).finishCommand i

theorem inv_illegalWord {s : State} (h : Sound s) (d : BitVec 8) (w : Word) : Inv (illegalWord d w s) := by
  unfold illegalWord
  split
  · exact h.ignoreCommand
  · exact h.kept.enterError _ _

theorem inv_runCommand {w : Word} {s t : State} (h : Sound s) (hrun : runCommand w s = .next t) : Inv t := by
  cases hd : decode w with
  | illegal d =>
    rw [runCommand_illegal hd] at hrun
    cases hrun
    exact inv_illegalWord h d w
  | command i =>
    rw [runCommand_command hd] at hrun
    exact inv_exec h hrun

/-- Settles O57: a step is an access, a reset, idling or a command, and each keeps the invariant. -/
theorem everyStepKeepsTheInvariant : Obligations.EveryStepKeepsTheInvariant := by
  intro s t h hstep
  have hrest : ∀ rest, Inv { s with inputs := rest } := fun _ => h
  rcases step_next hstep with ⟨a, rest, rfl⟩ | ⟨rest, -, rfl⟩ | ⟨rest, -, rfl⟩ | ⟨w, rest, -, hrun⟩
  · exact inv_performAccess (hrest rest) a
  · exact inv_hardReset _
  · exact hrest rest
  · exact inv_runCommand ((inv_iff _).1 (hrest rest)).1 hrun

end Sys2Proof.Machine

/-! PROOF. What the invariant gives of runs: progress, reachable states and whole runs; and what a step may not
change: the recorded error, the configuration, the open session. -/

namespace Sys2Proof.Machine

/-! ### Progress -/

/-- In a sound state every command answers a next state: the session it reads is there. -/
theorem exec_progress (i : Instr) {s : State} (h : Sound s) : ∃ t, exec i s = .next t := by
  cases hl : legalIn i s.state with
  | false =>
    by_cases he : s.state = .error
    · exact ⟨_, exec_ignored hl he⟩
    · exact ⟨_, exec_sequence hl he⟩
  | true =>
    have session : s.state = .ready ∨ s.state = .done →
        s.act = some (latchConfig s) ∧ s.bank = some (rom s.config.cmode) := fun hs =>
      have hopen := (run_of_stateInv h.state hs).1
      ⟨act_of_sessionOpen hopen, bank_of_sessionOpen hopen⟩
    cases i with
    | nop => exact ⟨_, exec_nop s⟩
    | init => exact ⟨_, exec_of_ruleRuns (.init (idle_of_legalIn_init hl))⟩
    | getc c =>
      have hs := open_of_legalIn_eval hl
      exact ⟨_, exec_of_ruleRuns (.getc c hs (session hs).2)⟩
    | eval =>
      have hs := open_of_legalIn_eval hl
      exact ⟨_, exec_of_ruleRuns (.eval hs (session hs).1 (session hs).2)⟩
    | step =>
      have hs := ready_of_legalIn_step hl
      exact ⟨_, exec_of_ruleRuns (.step hs (session (.inl hs)).1 (session (.inl hs)).2)⟩
    | run =>
      have hs := ready_of_legalIn_step hl
      exact ⟨_, exec_of_ruleRuns (.run hs (session (.inl hs)).1 (session (.inl hs)).2)⟩
    | final =>
      have hs := ready_of_legalIn_step hl
      exact ⟨_, exec_of_ruleRuns (.final hs (session (.inl hs)).1)⟩
    | clear => exact ⟨_, exec_of_ruleRuns .clear⟩

theorem runCommand_progress (w : Word) {s : State} (h : Sound s) : ∃ t, runCommand w s = .next t := by
  cases hd : decode w with
  | illegal d => exact ⟨_, runCommand_illegal hd s⟩
  | command i => exact runCommand_command hd s ▸ exec_progress i h

theorem engineMove_progress {s : State} (h : Sound s) : ∃ t, engineMove s = .next t := by
  cases hflight : s.inFlight with
  | none => exact ⟨s, engineMove_none hflight⟩
  | some w => exact engineMove_some hflight ▸ runCommand_progress w h

/-- Settles O58: accesses and resets always have a next state, and so has every command in a sound state. -/
theorem soundStatesNeverStop : Obligations.SoundStatesNeverStop := by
  intro s h
  rcases step_cases s with ⟨a, rest, -, heq⟩ | ⟨rest, -, heq⟩ | ⟨rest, -, heq⟩
  · exact ⟨_, heq⟩
  · exact ⟨_, heq⟩
  · rw [heq]
    have hrest : Inv { s with inputs := rest } := h
    exact engineMove_progress ((inv_iff _).1 hrest).1

/-! ### Reachable states -/

theorem inv_of_reachable {s : State} (h : Reachable s) : Inv s := by
  induction h with
  | start inputs => exact resetSatisfiesTheInvariant inputs
  | next _ hstep ih => exact everyStepKeepsTheInvariant _ _ ih hstep

/-- Settles O59: the invariant, read in READY and DONE. -/
theorem reachableBitstreamIsTheRounds : Obligations.ReachableBitstreamIsTheRounds := by
  intro s h hs
  obtain ⟨hstate, -⟩ := inv_of_reachable h
  obtain ⟨hopen, -, hnext, -, hstream⟩ := run_of_stateInv hstate hs
  refine ⟨latchConfig s, rom s.config.cmode, act_of_sessionOpen hopen, bank_of_sessionOpen hopen, rfl, hstream,
    hnext, fun hdone => ?done⟩
  case done =>
    obtain ⟨-, -, -, hall, hhx⟩ := (stateInv_done hdone).1 hstate
    exact ⟨hall, hhx⟩

/-! ### What a command leaves of the outside's part of the state -/

/-- What no command changes: the stored configuration and the model's own inputs. A command in flight is over
after it. -/
structure Completed (s t : State) : Prop where
  config : t.config = s.config
  roundCount : t.roundCount = s.roundCount
  inputs : t.inputs = s.inputs
  inFlight : t.inFlight = none

/-- What no rule changes. -/
structure SameSetup (s t : State) : Prop where
  config : t.config = s.config
  roundCount : t.roundCount = s.roundCount
  inputs : t.inputs = s.inputs

theorem SameSetup.refl (s : State) : SameSetup s s := ⟨rfl, rfl, rfl⟩

theorem SameSession.setup {s t : State} (h : SameSession s t) : SameSetup s t :=
  ⟨h.config, h.roundCount, h.inputs⟩

/-- The state a rule gives, or the one it had reached when it raised. -/
def outcomeState : Except (Raise × State) State → State
  | .ok t => t
  | .error (_, t) => t

theorem outcomeState_initRule (s : State) : outcomeState (initRule s) = s ∨ outcomeState (initRule s) = startRun s := by
  unfold initRule
  split_ifs
  · exact Or.inl rfl
  · exact Or.inl rfl
  · exact Or.inr rfl

theorem outcomeState_evalRule (a : ActiveConfig) (k : ConstantBank) (s : State) :
    outcomeState (evalRule a k s) = s ∨ ∃ r, outcomeState (evalRule a k s) = publish (evalIndex s) r s := by
  cases hr : evaluate a k (evalIndex s) with
  | error e => exact Or.inl (by rw [evalRule_error hr, outcomeState])
  | ok r => exact Or.inr ⟨r, by rw [evalRule_ok hr, outcomeState]⟩

theorem outcomeState_runRounds (a : ActiveConfig) (k : ConstantBank) (m : Nat) (s : State) :
    SameSession s (outcomeState (runRounds a k m s)) := by
  have h := runRounds_session a k m s
  cases hrun : runRounds a k m s with
  | ok t => rw [hrun] at h; exact h
  | error p => rw [hrun] at h; exact h

theorem outcomeState_stepRule (a : ActiveConfig) (k : ConstantBank) (s : State) :
    SameSession s (outcomeState (stepRule a k s)) := by
  unfold stepRule
  split
  · exact SameSession.refl s
  · exact outcomeState_runRounds a k 1 s

theorem outcomeState_runRule (a : ActiveConfig) (k : ConstantBank) (s : State) :
    ∃ t, SameSession s t ∧ (outcomeState (runRule a k s) = t ∨ outcomeState (runRule a k s) = aggregate t) := by
  have h := runRounds_session a k (a.rc.toNat - s.roundsDone.toNat) s
  unfold runRule
  cases hrun : runRounds a k (a.rc.toNat - s.roundsDone.toNat) s with
  | ok t => rw [hrun] at h; exact ⟨t, h, Or.inr rfl⟩
  | error p => rw [hrun] at h; exact ⟨p.2, h, Or.inl rfl⟩

theorem outcomeState_finalRule (a : ActiveConfig) (s : State) :
    outcomeState (finalRule a s) = s ∨ outcomeState (finalRule a s) = aggregate s := by
  unfold finalRule
  split_ifs
  · exact Or.inl rfl
  · exact Or.inr rfl

theorem setup_of_ruleRuns {i : Instr} {s : State} {out : Except (Raise × State) State} (h : RuleRuns i s out) :
    SameSetup s (outcomeState out) := by
  cases h with
  | init hs => rcases outcomeState_initRule s with h | h <;> rw [h] <;> exact ⟨rfl, rfl, rfl⟩
  | getc c hs hk => exact ⟨rfl, rfl, rfl⟩
  | @eval _ a k hs ha hk => rcases outcomeState_evalRule a k s with h | ⟨r, h⟩ <;> rw [h] <;> exact ⟨rfl, rfl, rfl⟩
  | @step _ a k hs ha hk => exact (outcomeState_stepRule a k s).setup
  | @run _ a k hs ha hk =>
    obtain ⟨t, hsame, h | h⟩ := outcomeState_runRule a k s
    · exact h ▸ hsame.setup
    · exact h ▸ ⟨hsame.config, hsame.roundCount, hsame.inputs⟩
  | @final _ a hs ha => rcases outcomeState_finalRule a s with h | h <;> rw [h] <;> exact ⟨rfl, rfl, rfl⟩
  | clear => exact ⟨rfl, rfl, rfl⟩

theorem completed_finishCommand {s : State} {out : Except (Raise × State) State}
    (h : SameSetup s (outcomeState out)) (i : Instr) : Completed s (finishCommand i out) := by
  obtain ⟨hconfig, hrc, hinputs⟩ := h
  cases out with
  | ok t => exact ⟨hconfig, hrc, hinputs, rfl⟩
  | error p => exact ⟨hconfig, hrc, hinputs, rfl⟩

theorem completed_runCommand {w : Word} {s t : State} (h : runCommand w s = .next t) : Completed s t := by
  cases hd : decode w with
  | illegal d =>
    rw [runCommand_illegal hd, illegalWord] at h
    split at h <;> cases h <;> exact ⟨rfl, rfl, rfl, rfl⟩
  | command i =>
    rw [runCommand_command hd] at h
    rcases exec_next h with ⟨-, rfl⟩ | ⟨-, rfl⟩ | ⟨-, rfl⟩ | ⟨out, hrule, rfl⟩
    · exact ⟨rfl, rfl, rfl, rfl⟩
    · exact ⟨rfl, rfl, rfl, rfl⟩
    · exact ⟨rfl, rfl, rfl, rfl⟩
    · exact completed_finishCommand (setup_of_ruleRuns hrule) i

/-- Settles O60: with no input left a step is the engine's own move. -/
theorem idleEngineHoldsAndBusyEngineCompletes : Obligations.IdleEngineHoldsAndBusyEngineCompletes := by
  intro s hin
  rw [step_nil hin]
  refine ⟨engineMove_none, fun h hbusy => ?busy⟩
  case busy =>
    obtain ⟨w, hw⟩ := Option.ne_none_iff_exists'.1 hbusy
    obtain ⟨t, ht⟩ := runCommand_progress w ((inv_iff s).1 h).1
    have hdone := completed_runCommand ht
    exact ⟨t, (engineMove_some hw).trans ht, hdone.inFlight, hdone.inputs.trans hin⟩

/-! ### ERROR and its exit -/

/-- The recorded error of ERROR. -/
def SameError (s t : State) : Prop :=
  t.state = .error ∧ t.errCode = s.errCode ∧ t.errDetail = s.errDetail ∧ t.errOpc = s.errOpc ∧ t.errIdx = s.errIdx

/-- What an access can change of the state outside the configuration: the command in flight, and no more. -/
structure SameRun (s t : State) : Prop where
  state : t.state = s.state
  errCode : t.errCode = s.errCode
  errDetail : t.errDetail = s.errDetail
  errOpc : t.errOpc = s.errOpc
  errIdx : t.errIdx = s.errIdx
  act : t.act = s.act
  bank : t.bank = s.bank
  locked : s.state ≠ .idle → t.config = s.config ∧ t.roundCount = s.roundCount

theorem sameRun_acceptCommand (w : Word) (s : State) : SameRun s (acceptCommand w s) := by
  unfold acceptCommand
  split_ifs <;> exact ⟨rfl, rfl, rfl, rfl, rfl, rfl, rfl, fun _ => ⟨rfl, rfl⟩⟩

theorem sameRun_writeReg (r : Reg) (v : Word) (s : State) : SameRun s (writeReg r v s) := by
  rcases writeReg_cases r v s with
    g | g | ⟨-, hs, g⟩ | ⟨-, hs, g⟩ | ⟨-, g⟩ | g | ⟨-, g⟩ | g | g <;> rw [g]
  case inr.inr.inl => exact ⟨rfl, rfl, rfl, rfl, rfl, rfl, rfl, fun h => absurd hs h⟩
  case inr.inr.inr.inl => exact ⟨rfl, rfl, rfl, rfl, rfl, rfl, rfl, fun h => absurd hs h⟩
  case inr.inr.inr.inr.inr.inr.inl => exact sameRun_acceptCommand v s
  all_goals exact ⟨rfl, rfl, rfl, rfl, rfl, rfl, rfl, fun _ => ⟨rfl, rfl⟩⟩

theorem sameRun_answerRead (r : Reg) (s : State) : SameRun s (answerRead r s) := by
  unfold answerRead
  split <;> exact ⟨rfl, rfl, rfl, rfl, rfl, rfl, rfl, fun _ => ⟨rfl, rfl⟩⟩

theorem sameRun_performAccess (a : Access) (s : State) : SameRun s (performAccess a s) := by
  cases h : a.admitted with
  | false =>
    rw [performAccess_refused h]
    exact ⟨rfl, rfl, rfl, rfl, rfl, rfl, rfl, fun _ => ⟨rfl, rfl⟩⟩
  | true =>
    cases a with
    | read n off => exact performAccess_read h s ▸ sameRun_answerRead _ s
    | write n off v =>
      rw [performAccess_write h]
      obtain ⟨hst, hc, hd, ho, hi, ha, hb, hl⟩ := sameRun_writeReg (regAt off.toNat) v s
      exact ⟨hst, hc, hd, ho, hi, ha, hb, hl⟩

/-- In ERROR a command either keeps the recorded error, or is `CLEAR` and leaves it. -/
theorem runCommand_error {w : Word} {s t : State} (hs : s.state = .error) (h : runCommand w s = .next t) :
    SameError s t ∨ (t.state = .idle ∧ w = 7#32) := by
  have ignored : ∀ u : State, u = ignoreCommand s ∨ u = completeQuiet s →
      SameError s u := by
    rintro u (rfl | rfl) <;> exact ⟨hs, rfl, rfl, rfl, rfl⟩
  cases hd : decode w with
  | illegal d =>
    rw [runCommand_illegal hd, illegalWord, if_pos hs] at h
    cases h
    exact Or.inl (ignored _ (.inl rfl))
  | command i =>
    rw [runCommand_command hd] at h
    rcases exec_next h with ⟨-, rfl⟩ | ⟨-, rfl⟩ | ⟨hne, -⟩ | ⟨out, hrule, rfl⟩
    · exact Or.inl (ignored _ (.inr rfl))
    · exact Or.inl (ignored _ (.inl rfl))
    · exact absurd hs hne
    · cases hrule
      case clear => exact Or.inr ⟨rfl, eq_encode_of_decode hd⟩
      all_goals simp_all

/-- Settles O52: accesses keep the recorded error, and of the commands only `CLEAR` ends ERROR. -/
theorem onlyClearOrResetLeavesError : Obligations.OnlyClearOrResetLeavesError := by
  intro s t hs hstep
  rcases step_next hstep with ⟨a, rest, rfl⟩ | ⟨rest, hin, rfl⟩ | ⟨rest, -, rfl⟩ | ⟨w, rest, hflight, hrun⟩
  · have h := sameRun_performAccess a { s with inputs := rest }
    exact Or.inl ⟨h.state.trans hs, h.errCode, h.errDetail, h.errOpc, h.errIdx⟩
  · exact Or.inr ⟨rfl, Or.inl ⟨rest, hin⟩⟩
  · exact Or.inl ⟨hs, rfl, rfl, rfl, rfl⟩
  · rcases runCommand_error (s := { s with inputs := rest }) hs hrun with h | ⟨h, rfl⟩
    · exact Or.inl h
    · exact Or.inr ⟨h, Or.inr hflight⟩

/-! ### The lock of the configuration and of the session -/

/-- Outside IDLE a rule keeps the session, but for `CLEAR`, which ends in IDLE. -/
theorem session_of_ruleRuns {i : Instr} {s : State} {out : Except (Raise × State) State} (hs : s.state ≠ .idle)
    (h : RuleRuns i s out) (hidle : (finishCommand i out).state ≠ .idle) :
    (outcomeState out).act = s.act ∧ (outcomeState out).bank = s.bank := by
  cases h with
  | init h => exact absurd h hs
  | getc c _ hk => exact ⟨rfl, rfl⟩
  | @eval _ a k _ ha hk => rcases outcomeState_evalRule a k s with h | ⟨r, h⟩ <;> rw [h] <;> exact ⟨rfl, rfl⟩
  | @step _ a k _ ha hk => exact ⟨(outcomeState_stepRule a k s).act, (outcomeState_stepRule a k s).bank⟩
  | @run _ a k _ ha hk =>
    obtain ⟨t, hsame, h | h⟩ := outcomeState_runRule a k s
    · exact h ▸ ⟨hsame.act, hsame.bank⟩
    · exact h ▸ ⟨hsame.act, hsame.bank⟩
  | @final _ a _ ha => rcases outcomeState_finalRule a s with h | h <;> rw [h] <;> exact ⟨rfl, rfl⟩
  | clear => exact absurd rfl hidle

theorem finishCommand_session (i : Instr) (out : Except (Raise × State) State) :
    (finishCommand i out).act = (outcomeState out).act ∧ (finishCommand i out).bank = (outcomeState out).bank := by
  cases out with
  | ok t => exact ⟨rfl, rfl⟩
  | error p => exact ⟨rfl, rfl⟩

theorem session_of_runCommand {w : Word} {s t : State} (hs : s.state ≠ .idle) (h : runCommand w s = .next t)
    (hidle : t.state ≠ .idle) : t.act = s.act ∧ t.bank = s.bank := by
  cases hd : decode w with
  | illegal d =>
    rw [runCommand_illegal hd, illegalWord] at h
    split at h <;> cases h <;> exact ⟨rfl, rfl⟩
  | command i =>
    rw [runCommand_command hd] at h
    rcases exec_next h with ⟨-, rfl⟩ | ⟨-, rfl⟩ | ⟨-, rfl⟩ | ⟨out, hrule, rfl⟩
    · exact ⟨rfl, rfl⟩
    · exact ⟨rfl, rfl⟩
    · exact ⟨rfl, rfl⟩
    · obtain ⟨hact, hbank⟩ := session_of_ruleRuns hs hrule hidle
      obtain ⟨hact', hbank'⟩ := finishCommand_session i out
      exact ⟨hact'.trans hact, hbank'.trans hbank⟩

/-- Settles O53: writes to the two registers are dropped outside IDLE, and no command writes them. -/
theorem configurationIsLockedDuringARun : Obligations.ConfigurationIsLockedDuringARun := by
  intro s t hs hstep hrst
  rcases step_next hstep with ⟨a, rest, rfl⟩ | ⟨rest, hin, -⟩ | ⟨rest, -, rfl⟩ | ⟨w, rest, -, hrun⟩
  · have h := sameRun_performAccess a { s with inputs := rest }
    obtain ⟨hconfig, hrc⟩ := h.locked hs
    exact ⟨hconfig, hrc, fun _ => ⟨h.act, h.bank⟩⟩
  · exact absurd hin (hrst rest)
  · exact ⟨rfl, rfl, fun _ => ⟨rfl, rfl⟩⟩
  · have h := completed_runCommand hrun
    exact ⟨h.config, h.roundCount, session_of_runCommand (s := { s with inputs := rest }) hs hrun⟩

/-! ### The locality of `EVAL` -/

/-- What `EVAL` does in READY and DONE, by the outcome of the evaluation. -/
theorem exec_eval_next {s t : State} (hs : s.state = .ready ∨ s.state = .done) (h : exec .eval s = .next t) :
    ∃ a k, s.act = some a ∧ s.bank = some k ∧
      ((∃ e, evaluate a k s.evalArg.toInt = .error e ∧ t = enterError ⟨e.code, e.detail, s.evalArg⟩ 3#8 s) ∨
        ∃ r, evaluate a k s.evalArg.toInt = .ok r ∧ t = completeDone (publish s.evalArg.toInt r s)) := by
  obtain ⟨a, k, ha, hk, -⟩ := withSession_next ((gate_legal (legalIn_open hs).1 _).symm.trans h)
  refine ⟨a, k, ha, hk, ?_⟩
  cases hr : evaluate a k s.evalArg.toInt with
  | error e =>
    rw [exec_eval_error hs ha hk hr] at h
    cases h
    exact Or.inl ⟨e, rfl, rfl⟩
  | ok r =>
    rw [exec_of_ruleRuns (.eval hs ha hk), evalRule_ok hr] at h
    cases h
    exact Or.inr ⟨r, rfl, rfl⟩

/-- Settles O54: both states evaluate the same index under the same session. -/
theorem evaluationDependsOnlyOnIndexAndSession : Obligations.EvaluationDependsOnlyOnIndexAndSession := by
  intro s₁ s₂ t₁ t₂ hs₁ hs₂ hact hbank harg h₁ h₂
  obtain ⟨a, k, ha, hk, hout₁⟩ := exec_eval_next hs₁ h₁
  obtain ⟨a', k', ha', hk', hout₂⟩ := exec_eval_next hs₂ h₂
  obtain rfl : a = a' := Option.some.inj (ha.symm.trans (hact.trans ha'))
  obtain rfl : k = k' := Option.some.inj (hk.symm.trans (hbank.trans hk'))
  have running : ∀ {s : State} (n : Int) (r : EvalResult), s.state = .ready ∨ s.state = .done →
      (completeDone (publish n r s)).state ≠ .error := by
    rintro s n r (h | h) he <;> cases h.symm.trans he
  rw [← harg] at hout₂
  cases hr : evaluate a k s₁.evalArg.toInt with
  | error e =>
    simp only [hr, Except.error.injEq, reduceCtorEq, false_and, exists_false, or_false, exists_eq_left'] at hout₁ hout₂
    obtain rfl := hout₁
    obtain rfl := hout₂
    exact ⟨Iff.rfl, fun h => absurd rfl h, fun _ => ⟨rfl, rfl, rfl⟩⟩
  | ok r =>
    simp only [hr, Except.ok.injEq, reduceCtorEq, false_and, exists_false, false_or, exists_eq_left'] at hout₁ hout₂
    obtain rfl := hout₁
    obtain rfl := hout₂
    exact ⟨⟨fun h => absurd h (running _ r hs₁), fun h => absurd h (running _ r hs₂)⟩,
      fun _ => ⟨rfl, rfl, rfl, rfl, rfl, rfl⟩, fun h => absurd h (running _ r hs₁)⟩

end Sys2Proof.Machine

/-! PROOF. `RUN` (42_generation.md R89): from a sound state it generates the whole stream, and it is `STEP` repeated
as one command. -/

namespace Sys2Proof.Machine

/-! ### The loop of rounds on a stream that fits -/

section Loop

variable {a : ActiveConfig} {k : ConstantBank} {N m : Nat} {s t : State}

theorem Running.stream (h : Running a k N m s) : streamOf a k s.roundsDone.toNat = some s.bs := by
  obtain ⟨-, -, ⟨-, -, hstream⟩, -⟩ := h.open
  obtain ⟨hlatch, hrom⟩ := h.latch
  rwa [hlatch, hrom] at hstream

theorem Running.roundIndex (h : Running a k N m s) : roundIndex s = ((s.roundsDone.toNat + 1 : Nat) : Int) :=
  congrArg Nat.cast h.bounds.1

/-- When the whole stream exists and fits, no round of it fails. -/
theorem Running.round_succeeds (h : Running a k N (m + 1) s) {b : List Bool} (hb : streamOf a k N = some b)
    (hlen : b.length ≤ 32768) :
    ∃ r, evaluate a k (Machine.roundIndex s) = .ok r ∧
      Machine.oneRound a k s = .ok (appendRound r (publish (Machine.roundIndex s) r s)) := by
  obtain ⟨-, hrounds, -⟩ := h.bounds
  obtain ⟨p, hp, hplen⟩ := streamOf_mono (by omega : s.roundsDone.toNat + 1 ≤ N) hb
  obtain ⟨q, r, hq, hr, rfl⟩ := streamOf_succ_eq_some hp
  rw [h.stream, Option.some.injEq] at hq
  rw [← h.roundIndex] at hr
  refine ⟨r, hr, oneRound_of_fits hr ?_⟩
  rw [hq]
  simpa using hplen.trans hlen

/-- The result registers hold the evaluation of the last round done (42_generation.md R84, R86). -/
def HoldsLastRound (a : ActiveConfig) (k : ConstantBank) (t : State) : Prop :=
  t.lastIdx.toNat = t.roundsDone.toNat ∧
    ∃ r, evaluate a k (t.roundsDone.toNat : Int) = .ok r ∧ t.mixres = some r.mixres ∧
      t.intpart = some r.intpart ∧ t.fracp = some r.fracp ∧ t.scaled = r.scaled ∧ t.lastLen.toNat = r.len

theorem Running.holdsLastRound (h : Running a k N (m + 1) s) (hr : Machine.oneRound a k s = .ok t) :
    HoldsLastRound a k t := by
  have hrunning := h.oneRound hr
  have hwidth : 1 ≤ a.b.toNat ∧ a.b.toNat ≤ 128 := h.latch.1 ▸ width_of_sessionOpen h.open.1
  obtain ⟨hnext, hrounds, hN⟩ := h.bounds
  obtain ⟨-, hrounds', -⟩ := hrunning.bounds
  obtain ⟨r, heval, -, rfl⟩ := oneRound_ok hr
  obtain ⟨-, -, -, -, hlen⟩ := evaluate_bounds heval hwidth.1
  have hdone : (appendRound r (publish (Machine.roundIndex s) r s)).roundsDone.toNat = s.roundsDone.toNat + 1 := by
    omega
  refine ⟨?_, r, ?_, rfl, rfl, rfl, rfl, ?_⟩
  · rw [hdone, appendRound_lastIdx, publish_lastIdx, ofInt_roundIndex, hnext]
  · rw [hdone, ← h.roundIndex, heval]
  · rw [appendRound_lastLen, publish_lastLen, BitVec.toNat_ofNat, Nat.mod_eq_of_lt (by omega)]

/-- The loop on a stream that fits does all its rounds; if there was one, the result registers hold the last. -/
theorem Running.runRounds_succeeds (h : Running a k N m s) {b : List Bool} (hb : streamOf a k N = some b)
    (hlen : b.length ≤ 32768) :
    ∃ t, Machine.runRounds a k m s = .ok t ∧ Running a k N 0 t ∧ (t = s ∨ HoldsLastRound a k t) := by
  have hloop := runRounds_induct (a := a) (k := k)
    (P := fun j t => Running a k N j t ∧ (t = s ∨ HoldsLastRound a k t))
    (fun _ _ _ ⟨hs, _⟩ hr => ⟨hs.oneRound hr, Or.inr (hs.holdsLastRound hr)⟩) m s ⟨h, Or.inl rfl⟩
  cases hrun : Machine.runRounds a k m s with
  | ok t =>
    rw [hrun] at hloop
    exact ⟨t, rfl, hloop⟩
  | error p =>
    rw [hrun] at hloop
    obtain ⟨j, ⟨hj, -⟩, herr⟩ := hloop
    obtain ⟨r, -, hok⟩ := hj.round_succeeds hb hlen
    rw [herr] at hok
    cases hok

end Loop

theorem runRule_ok {a : ActiveConfig} {k : ConstantBank} {s t : State}
    (h : runRounds a k (a.rc.toNat - s.roundsDone.toNat) s = .ok t) : runRule a k s = .ok (aggregate t) := by
  rw [runRule, h]

theorem runRule_error {a : ActiveConfig} {k : ConstantBank} {s : State} {p : Raise × State}
    (h : runRounds a k (a.rc.toNat - s.roundsDone.toNat) s = .error p) : runRule a k s = .error p := by
  rw [runRule, h]

/-- Settles O46: the loop does all rounds that are left, and the aggregation is that of the whole stream. -/
theorem runGeneratesTheWholeStream : Obligations.RunGeneratesTheWholeStream := by
  intro s b hinv hs hb hlen
  have hsound := ((inv_iff s).1 hinv).1
  obtain ⟨hopen, -, -⟩ := run_of_stateInv hsound.state (.inl hs)
  have ha := act_of_sessionOpen hopen
  have hk := bank_of_sessionOpen hopen
  obtain ⟨hlimit, hstart⟩ := Running.start hsound hs ha hk
  have hall : s.roundsDone.toNat + ((latchConfig s).rc.toNat - s.roundsDone.toNat) = s.roundCount.toNat :=
    Nat.add_sub_cancel' hlimit
  have hrunning := hall ▸ hstart _ hall.le
  obtain ⟨t, hrun, ht, hlast⟩ := hrunning.runRounds_succeeds hb hlen
  have hsame : SameSession s t := by
    have h := runRounds_session (latchConfig s) (rom s.config.cmode) ((latchConfig s).rc.toNat - s.roundsDone.toNat) s
    rwa [hrun] at h
  have hdone : t.roundsDone.toNat = s.roundCount.toNat := ht.rounds
  have hbs : t.bs = b := Option.some.inj (ht.stream.symm.trans (hdone ▸ hb))
  have hexec : exec .run s = .next (completeDone (aggregate t)) := by
    rw [exec_of_ruleRuns (.run hs ha hk), runRule_ok hrun, finishCommand_ok]
  refine ⟨_, hexec, rfl, hbs, congrArg aggregateDigits hbs, hdone, ?nextIdx, congrArg setDone hsame.irqStat, rfl,
    fun hleft => ?last, fun hnone => ?kept, hsame.config, hsame.roundCount, hsame.evalArg, hsame.act, hsame.bank,
    hsame.cval, hsame.irqEn, hsame.cmdOvr, hsame.wlock, hsame.cmdIgn, hsame.errCode, hsame.errDetail,
    hsame.errOpc, hsame.errIdx, hsame.inputs⟩
  case nextIdx => exact ht.bounds.1.trans (congrArg (· + 1) hdone)
  case last =>
    rcases hlast with rfl | h
    · exact absurd hdone hleft.ne
    · rw [HoldsLastRound, hdone] at h
      exact h
  case kept =>
    have hzero : (latchConfig s).rc.toNat - s.roundsDone.toNat = 0 := by omega
    rw [hzero, runRounds, Except.ok.injEq] at hrun
    exact hrun ▸ ⟨rfl, rfl, rfl, rfl, rfl, rfl⟩

/-! ### `RUN` as repeated `STEP` -/

/-- The loop of rounds, cut in two. -/
theorem runRounds_add (a : ActiveConfig) (k : ConstantBank) (m n : Nat) (s : State) :
    runRounds a k (m + n) s = runRounds a k m s >>= runRounds a k n := by
  induction m generalizing s with
  | zero => rw [Nat.zero_add]; rfl
  | succ m ih =>
    rw [Nat.add_right_comm, runRounds, runRounds]
    cases oneRound a k s with
    | error e => rfl
    | ok t => exact ih t

/-- A round reads neither the pending bits nor the command in flight. -/
theorem oneRound_completeDone (a : ActiveConfig) (k : ConstantBank) (s : State) :
    oneRound a k (completeDone s) = (oneRound a k s).map completeDone := by
  have hindex : roundIndex (completeDone s) = roundIndex s := rfl
  unfold oneRound
  rw [hindex, completeDone_bs]
  cases evaluate a k (roundIndex s) with
  | error e => rfl
  | ok r =>
    simp only
    split_ifs <;> rfl

theorem completeDone_completeDone (s : State) : completeDone (completeDone s) = completeDone s := by
  simp [completeDone, setDone, BitVec.or_assoc]

/-- What a `STEP` that leaves READY did: one round, and its completion. -/
theorem exec_step_ready {s t : State} {a : ActiveConfig} {k : ConstantBank} (hs : s.state = .ready)
    (ha : s.act = some a) (hk : s.bank = some k) (h : exec .step s = .next t) (ht : t.state = .ready) :
    s.roundsDone.toNat < a.rc.toNat ∧ ∃ u, oneRound a k s = .ok u ∧ t = completeDone u := by
  rw [exec_of_ruleRuns (.step hs ha hk)] at h
  rcases le_or_gt a.rc.toNat s.roundsDone.toNat with hdone | hleft
  · rw [stepRule_no_rounds hdone] at h
    cases h
    cases ht
  · rw [stepRule_rounds hleft] at h
    cases hr : oneRound a k s with
    | error e =>
      rw [runRounds_one_error hr] at h
      cases h
      cases ht
    | ok u =>
      rw [runRounds_one_ok hr] at h
      cases h
      exact ⟨hleft, u, rfl, rfl⟩

/-- What a `STEP` with rounds left that ends in ERROR did: a round that failed. -/
theorem exec_step_failed {s t : State} {a : ActiveConfig} {k : ConstantBank} (hs : s.state = .ready)
    (ha : s.act = some a) (hk : s.bank = some k) (hleft : s.roundsDone.toNat < a.rc.toNat)
    (h : exec .step s = .next t) (ht : t.state = .error) :
    ∃ e, oneRound a k s = .error e ∧ t = enterError e 4#8 s := by
  rw [exec_of_ruleRuns (.step hs ha hk), stepRule_rounds hleft] at h
  cases hr : oneRound a k s with
  | error e =>
    rw [runRounds_one_error hr] at h
    cases h
    exact ⟨e, rfl, rfl⟩
  | ok u =>
    rw [runRounds_one_ok hr] at h
    cases h
    cases hs.symm.trans ((oneRound_session hr).state.symm.trans ht)

/-- After `j` rounds by `STEP` the state `u` is the one that the loop of `RUN` has reached, but for the completions
of the `STEP`s. -/
structure StepsAsLoop (a : ActiveConfig) (k : ConstantBank) (s : State) (j : Nat) (u : State) : Prop where
  ready : u.state = .ready
  act : u.act = some a
  bank : u.bank = some k
  rounds : u.roundsDone.toNat = s.roundsDone.toNat + j
  limit : j = 0 ∨ u.roundsDone.toNat ≤ a.rc.toNat
  loop : ∃ t, runRounds a k j s = .ok t ∧ completeDone t = completeDone u

section Steps

variable {a : ActiveConfig} {k : ConstantBank} {s u v t : State} {j : Nat}

/-- The loop's next round has the outcome that it has in a state that differs by completions. -/
theorem oneRound_congr (h : completeDone t = completeDone u) :
    (oneRound a k t).map completeDone = (oneRound a k u).map completeDone := by
  rw [← oneRound_completeDone, h, oneRound_completeDone]

theorem oneRound_ok_congr (h : completeDone t = completeDone u) (hr : oneRound a k u = .ok v) :
    ∃ w, oneRound a k t = .ok w ∧ completeDone w = completeDone v := by
  have hc := oneRound_congr (a := a) (k := k) h
  rw [hr] at hc
  cases hw : oneRound a k t with
  | error e => rw [hw] at hc; cases hc
  | ok w => rw [hw] at hc; exact ⟨w, rfl, Except.ok.inj hc⟩

theorem oneRound_error_congr (h : completeDone t = completeDone u) {e : Raise}
    (hr : oneRound a k u = .error e) : oneRound a k t = .error e := by
  have hc := oneRound_congr (a := a) (k := k) h
  rw [hr] at hc
  cases hw : oneRound a k t with
  | error e' => rw [hw] at hc; exact congrArg Except.error (Except.error.inj hc)
  | ok w => rw [hw] at hc; cases hc

/-- One `STEP` more is one round more of the loop. -/
theorem StepsAsLoop.step (h : StepsAsLoop a k s j u) (hexec : exec .step u = .next v) (hv : v.state = .ready) :
    StepsAsLoop a k s (j + 1) v := by
  obtain ⟨hleft, w, hw, rfl⟩ := exec_step_ready h.ready h.act h.bank hexec hv
  obtain ⟨t, ht, htu⟩ := h.loop
  obtain ⟨x, hx, hxw⟩ := oneRound_ok_congr htu hw
  have hsame := oneRound_session hw
  have hdone : w.roundsDone.toNat = u.roundsDone.toNat + 1 := by
    obtain ⟨r, -, -, rfl⟩ := oneRound_ok hw
    have hrc := a.rc.isLt
    rw [appendRound_roundsDone, publish_roundsDone, BitVec.toNat_add, BitVec.toNat_ofNat]
    omega
  refine ⟨hsame.state.trans h.ready, hsame.act.trans h.act, hsame.bank.trans h.bank,
    hdone.trans (by rw [h.rounds, Nat.add_assoc]), Or.inr (hdone.trans_le hleft), x, ?_, ?_⟩
  · rw [runRounds_add, ht, ok_bind, runRounds_one_ok hx]
  · rw [hxw, completeDone_completeDone]

theorem StepsAsLoop.of_chain {u : Nat → State} {m : Nat} (hs : (u 0).state = .ready) (ha : (u 0).act = some a)
    (hk : (u 0).bank = some k)
    (hchain : ∀ j, j < m → exec .step (u j) = .next (u (j + 1)) ∧ (u (j + 1)).state = .ready) :
    StepsAsLoop a k (u 0) m (u m) := by
  induction m with
  | zero => exact ⟨hs, ha, hk, rfl, Or.inl rfl, u 0, rfl, rfl⟩
  | succ m ih =>
    obtain ⟨hexec, hready⟩ := hchain m (Nat.lt_succ_self m)
    exact (ih fun j hj => hchain j (hj.trans (Nat.lt_succ_self m))).step hexec hready

/-- With no round left after the `STEP`s, the loop of `RUN` ends where they end. -/
theorem StepsAsLoop.run_done (h : StepsAsLoop a k s j u) (hs : s.state = .ready) (ha : s.act = some a)
    (hk : s.bank = some k) (hdone : a.rc.toNat ≤ u.roundsDone.toNat) :
    exec .run s = .next { u with
      hx := aggregateDigits u.bs, state := .done, irqStat := s.irqStat ||| 1#2, inFlight := none } := by
  obtain ⟨t, ht, htu⟩ := h.loop
  have hleft : a.rc.toNat - s.roundsDone.toNat = j := by
    have hrounds := h.rounds
    rcases h.limit with hzero | hlimit <;> omega
  have hirq : t.irqStat = s.irqStat := by
    have hsame := runRounds_session a k j s
    rw [ht] at hsame
    exact hsame.irqStat
  rw [exec_of_ruleRuns (.run hs ha hk), runRule_ok (hleft ▸ ht), finishCommand_ok, ← hirq]
  exact congrArg (fun v => Host.Outcome.next
    { v with hx := aggregateDigits v.bs, state := .done, irqStat := t.irqStat ||| 1#2, inFlight := none }) htu

/-- When the next round fails, the loop of `RUN` stops at it. -/
theorem StepsAsLoop.run_failed (h : StepsAsLoop a k s j u) (hs : s.state = .ready) (ha : s.act = some a)
    (hk : s.bank = some k) (hleft : u.roundsDone.toNat < a.rc.toNat) {e : Raise}
    (he : oneRound a k u = .error e) :
    exec .run s = .next { enterError e 4#8 u with errOpc := 5#8, irqStat := s.irqStat ||| 2#2 } := by
  obtain ⟨t, ht, htu⟩ := h.loop
  obtain ⟨n, hn⟩ : ∃ n, a.rc.toNat - s.roundsDone.toNat = j + (n + 1) :=
    ⟨a.rc.toNat - s.roundsDone.toNat - j - 1, by have := h.rounds; omega⟩
  have hirq : t.irqStat = s.irqStat := by
    have hsame := runRounds_session a k j s
    rw [ht] at hsame
    exact hsame.irqStat
  have hloop : runRounds a k (a.rc.toNat - s.roundsDone.toNat) s = .error (e, t) := by
    rw [hn, runRounds_add, ht, ok_bind, runRounds, oneRound_error_congr htu he]
  rw [exec_of_ruleRuns (.run hs ha hk), runRule_error hloop, finishCommand_error, ← hirq]
  exact congrArg (fun v => Host.Outcome.next
    { enterError e 4#8 v with errOpc := 5#8, irqStat := t.irqStat ||| 2#2 }) htu

end Steps

/-- Settles O47: the chain of `STEP`s follows the loop of `RUN` round by round. -/
theorem runIsRepeatedStep : Obligations.RunIsRepeatedStep := by
  rintro s u m a k hs ha hk rfl hchain
  have h := StepsAsLoop.of_chain hs ha hk hchain
  refine ⟨h.run_done hs ha hk, fun e hleft hexec he => ?failed⟩
  case failed =>
    obtain ⟨r, hr, rfl⟩ := exec_step_failed h.ready h.act h.bank hleft hexec he
    exact h.run_failed hs ha hk hleft hr

end Sys2Proof.Machine

/-! PROOF. The frame of every command in the window ("Flags and status written" in 41_session.md and
42_generation.md; 60_exceptions.md R102): which registers each update may change, and so which each command may. -/

namespace Sys2Proof.Machine

/-! ### The frame of each update -/

section Frames

variable {r : Reg}

theorem readReg_completeQuiet (h : r ≠ .status) (s : State) : readReg (completeQuiet s) r = readReg s r := by
  cases r with
  | status => exact absurd rfl h
  | _ => rfl

theorem readReg_ignoreCommand (h : r ≠ .status) (s : State) : readReg (ignoreCommand s) r = readReg s r := by
  cases r with
  | status => exact absurd rfl h
  | _ => rfl

theorem readReg_completeDone (h : completionReg r = false) (s : State) :
    readReg (completeDone s) r = readReg s r := by
  cases r with
  | status | irqStat => cases h
  | _ => rfl

theorem readReg_enterError (hc : completionReg r = false) (he : errorReg r = false) (hb : bitstreamReg r = false)
    (ha : aggregateReg r = false) (e : Raise) (opc : BitVec 8) (s : State) :
    readReg (enterError e opc s) r = readReg s r := by
  cases r with
  | status | irqStat => cases hc
  | err | errIdx => cases he
  | bsLen | bsbuf => cases hb
  | hexLen | hexbuf => cases ha
  | _ => rfl

theorem readReg_startRun (hs : completionReg r = false) (hn : counterReg r = false) (hb : bitstreamReg r = false)
    (ha : aggregateReg r = false) (s : State) : readReg (startRun s) r = readReg s r := by
  cases r with
  | status => cases hs
  | roundsDone | nextIdx => cases hn
  | bsLen | bsbuf => cases hb
  | hexLen | hexbuf => cases ha
  | _ => rfl

theorem readReg_clearSession (h : mayChange .clear r = false) (s : State) :
    readReg (clearSession s) r = readReg s r := by
  cases r with
  | status | err | errIdx | roundsDone | nextIdx | bsLen | hexLen | lastIdx | lastLen | scaled | mixres | intpart
  | fracp | cval | bsbuf | hexbuf => cases h
  | _ => rfl

theorem readReg_setCval (h : cvalReg r = false) (v : HPV) (s : State) : readReg (setCval v s) r = readReg s r := by
  cases r with
  | cval => cases h
  | _ => rfl

theorem readReg_publish (h : publishedReg r = false) (n : Int) (x : EvalResult) (s : State) :
    readReg (publish n x s) r = readReg s r := by
  cases r with
  | lastIdx | lastLen | scaled | mixres | intpart | fracp => cases h
  | _ => rfl

theorem readReg_appendRound (hn : counterReg r = false) (hb : bitstreamReg r = false) (x : EvalResult) (s : State) :
    readReg (appendRound x s) r = readReg s r := by
  cases r with
  | roundsDone | nextIdx => cases hn
  | bsLen | bsbuf => cases hb
  | _ => rfl

theorem readReg_aggregate (hs : completionReg r = false) (ha : aggregateReg r = false) (s : State) :
    readReg (aggregate s) r = readReg s r := by
  cases r with
  | status => cases hs
  | hexLen | hexbuf => cases ha
  | _ => rfl

theorem readReg_oneRound {a : ActiveConfig} {k : ConstantBank} {s t : State} (hp : publishedReg r = false)
    (hn : counterReg r = false) (hb : bitstreamReg r = false) (h : oneRound a k s = .ok t) :
    readReg t r = readReg s r := by
  obtain ⟨x, -, -, rfl⟩ := oneRound_ok h
  rw [readReg_appendRound hn hb, readReg_publish hp]

/-- The rounds of a loop, also those before a failing one. -/
theorem readReg_runRounds (hp : publishedReg r = false) (hn : counterReg r = false) (hb : bitstreamReg r = false)
    (a : ActiveConfig) (k : ConstantBank) (m : Nat) (s : State) :
    readReg (outcomeState (runRounds a k m s)) r = readReg s r := by
  have h := runRounds_induct (a := a) (k := k) (P := fun _ t => readReg t r = readReg s r)
    (fun _ _ _ ht hr => (readReg_oneRound hp hn hb hr).trans ht) m s rfl
  cases hrun : runRounds a k m s with
  | ok t => rw [hrun] at h; exact h
  | error p => rw [hrun] at h; exact h.choose_spec.1

end Frames

/-! ### The frame of each command -/

/-- A rule that succeeds changes what the command may change, and one that raises only what the command may change
on an error. -/
def RuleFrame (i : Instr) (s : State) (r : Reg) : Except (Raise × State) State → Prop
  | .ok t => mayChange i r = false → completionReg r = false ∧ readReg t r = readReg s r
  | .error (_, t) => mayChangeOnError i r = false → readReg t r = readReg s r

theorem ruleFrame_unchanged (i : Instr) (s : State) (r : Reg) (e : Raise) : RuleFrame i s r (.error (e, s)) :=
  fun _ => rfl

theorem ruleFrame_initRule (s : State) (r : Reg) : RuleFrame .init s r (initRule s) := by
  unfold initRule
  split_ifs
  · exact ruleFrame_unchanged _ _ _ _
  · exact ruleFrame_unchanged _ _ _ _
  · intro h
    simp only [mayChange, Bool.or_eq_false_iff] at h
    obtain ⟨⟨⟨hc, hn⟩, hb⟩, ha⟩ := h
    exact ⟨hc, readReg_startRun hc hn hb ha s⟩

theorem ruleFrame_evalRule (a : ActiveConfig) (k : ConstantBank) (s : State) (r : Reg) :
    RuleFrame .eval s r (evalRule a k s) := by
  cases hr : evaluate a k (evalIndex s) with
  | error e => exact evalRule_error hr ▸ ruleFrame_unchanged _ _ _ _
  | ok x =>
    rw [evalRule_ok hr]
    intro h
    simp only [mayChange, Bool.or_eq_false_iff] at h
    obtain ⟨hc, hp⟩ := h
    exact ⟨hc, readReg_publish hp _ x s⟩

theorem ruleFrame_stepRule (a : ActiveConfig) (k : ConstantBank) (s : State) (r : Reg) :
    RuleFrame .step s r (stepRule a k s) := by
  rcases le_or_gt a.rc.toNat s.roundsDone.toNat with hdone | hleft
  · exact stepRule_no_rounds hdone k ▸ ruleFrame_unchanged _ _ _ _
  · rw [stepRule_rounds hleft]
    cases hr : oneRound a k s with
    | error e => exact runRounds_one_error hr ▸ ruleFrame_unchanged _ _ _ _
    | ok t =>
      rw [runRounds_one_ok hr]
      intro h
      simp only [mayChange, Bool.or_eq_false_iff] at h
      obtain ⟨⟨⟨hc, hp⟩, hn⟩, hb⟩ := h
      exact ⟨hc, readReg_oneRound hp hn hb hr⟩

theorem ruleFrame_runRule (a : ActiveConfig) (k : ConstantBank) (s : State) (r : Reg) :
    RuleFrame .run s r (runRule a k s) := by
  cases hrun : runRounds a k (a.rc.toNat - s.roundsDone.toNat) s with
  | ok t =>
    rw [runRule_ok hrun]
    intro h
    simp only [mayChange, Bool.or_eq_false_iff] at h
    obtain ⟨⟨⟨⟨hc, hp⟩, hn⟩, hb⟩, ha⟩ := h
    have hloop := readReg_runRounds hp hn hb a k (a.rc.toNat - s.roundsDone.toNat) s
    rw [hrun] at hloop
    exact ⟨hc, (readReg_aggregate hc ha t).trans hloop⟩
  | error p =>
    rw [runRule_error hrun]
    intro h
    simp only [mayChangeOnError, Bool.or_eq_false_iff, beq_self_eq_true, Bool.true_and] at h
    obtain ⟨⟨-, hb⟩, hp, hn⟩ : (_ ∧ bitstreamReg r = false) ∧ publishedReg r = false ∧ counterReg r = false :=
      ⟨h.1.1, h.2⟩
    have hloop := readReg_runRounds hp hn hb a k (a.rc.toNat - s.roundsDone.toNat) s
    rwa [hrun] at hloop

theorem ruleFrame_finalRule (a : ActiveConfig) (s : State) (r : Reg) : RuleFrame .final s r (finalRule a s) := by
  unfold finalRule
  split_ifs
  · exact ruleFrame_unchanged _ _ _ _
  · intro h
    simp only [mayChange, Bool.or_eq_false_iff] at h
    obtain ⟨hc, ha⟩ := h
    exact ⟨hc, readReg_aggregate hc ha s⟩

theorem ruleFrame_of_ruleRuns {i : Instr} {s : State} {out : Except (Raise × State) State} (h : RuleRuns i s out)
    (r : Reg) : RuleFrame i s r out := by
  cases h with
  | init hs => exact ruleFrame_initRule s r
  | getc c hs hk =>
    intro h
    simp only [mayChange, Bool.or_eq_false_iff] at h
    exact ⟨h.1, readReg_setCval h.2 _ s⟩
  | @eval _ a k hs ha hk => exact ruleFrame_evalRule a k s r
  | @step _ a k hs ha hk => exact ruleFrame_stepRule a k s r
  | @run _ a k hs ha hk => exact ruleFrame_runRule a k s r
  | @final _ a hs ha => exact ruleFrame_finalRule a s r
  | clear =>
    intro h
    refine ⟨?_, readReg_clearSession h s⟩
    simp only [mayChange, Bool.or_eq_false_iff] at h
    obtain ⟨⟨⟨⟨⟨⟨hc, -⟩, -⟩, -⟩, -⟩, -⟩, -⟩ := h
    exact hc

/-! ### The frame in the window -/

/-- `t` reads as `s` in every register that a command `i` that ends in `t` may not change. -/
def CommandFrame (i : Instr) (s t : State) : Prop :=
  ∀ r, (t.state ≠ .error → mayChange i r = false → readReg t r = readReg s r) ∧
    (t.state = .error → mayChangeOnError i r = false → readReg t r = readReg s r)

/-- Every command's registers, on success and on an error, contain `STATUS`. -/
theorem ne_status_of_mayChange {i : Instr} {r : Reg} (h : mayChange i r = false ∨ mayChangeOnError i r = false) :
    r ≠ .status := by
  rintro rfl
  cases i <;> rcases h with h | h <;> cases h

theorem commandFrame_enterError (i : Instr) {s t : State} (e : Raise) (opc : BitVec 8)
    (h : ∀ r, mayChangeOnError i r = false → readReg t r = readReg s r) :
    CommandFrame i s (enterError e opc t) := by
  refine fun r => ⟨fun hne => absurd rfl hne, fun _ hr => ?_⟩
  have hregs := hr
  simp only [mayChangeOnError, Bool.or_eq_false_iff] at hregs
  obtain ⟨⟨⟨⟨hc, he⟩, hb⟩, ha⟩, -⟩ := hregs
  exact (readReg_enterError hc he hb ha e opc t).trans (h r hr)

/-- No rule that succeeds ends in ERROR. -/
theorem state_ne_error_of_ruleRuns {i : Instr} {s t : State} (h : RuleRuns i s (.ok t)) : t.state ≠ .error := by
  generalize hout : Except.ok t = out at h
  have running : ∀ {u : State}, s.state = .ready ∨ s.state = .done → u.state = s.state → u.state ≠ .error := by
    rintro u (hs | hs) hu he <;> cases he.symm.trans (hu.trans hs)
  have htarget : t = outcomeState out := congrArg outcomeState hout
  cases h with
  | init hs =>
    rcases outcomeState_initRule s with h | h <;> rw [htarget, h]
    · rw [hs]; decide
    · exact fun he => by cases he
  | getc c hs hk => exact htarget ▸ running hs rfl
  | @eval _ a k hs ha hk =>
    rcases outcomeState_evalRule a k s with h | ⟨r, h⟩ <;> rw [htarget, h] <;> exact running hs rfl
  | @step _ a k hs ha hk => exact htarget ▸ running (.inl hs) (outcomeState_stepRule a k s).state
  | @run _ a k hs ha hk =>
    obtain ⟨u, hsame, h | h⟩ := outcomeState_runRule a k s <;> rw [htarget, h]
    · exact running (.inl hs) hsame.state
    · exact fun he => by cases he
  | @final _ a hs ha =>
    rcases outcomeState_finalRule a s with h | h <;> rw [htarget, h]
    · exact running (.inl hs) rfl
    · exact fun he => by cases he
  | clear => exact htarget ▸ fun he => by cases he

theorem commandFrame_finishCommand {i : Instr} {s : State} {out : Except (Raise × State) State}
    (h : RuleRuns i s out) : CommandFrame i s (finishCommand i out) := by
  have hframe := ruleFrame_of_ruleRuns h
  cases out with
  | ok t =>
    refine fun r => ⟨fun _ hr => ?_, fun he => ?_⟩
    case refine_2 => exact absurd (show t.state = .error from he) (state_ne_error_of_ruleRuns h)
    obtain ⟨hc, hread⟩ := hframe r hr
    exact (readReg_completeDone hc t).trans hread
  | error p => exact commandFrame_enterError i p.1 (opcOf i) hframe

theorem commandFrame_exec {i : Instr} {s t : State} (h : exec i s = .next t) : CommandFrame i s t := by
  rcases exec_next h with ⟨-, rfl⟩ | ⟨-, rfl⟩ | ⟨-, rfl⟩ | ⟨out, hrule, rfl⟩
  · exact fun r => ⟨fun _ hr => readReg_completeQuiet (ne_status_of_mayChange (.inl hr)) s,
      fun _ hr => readReg_completeQuiet (ne_status_of_mayChange (.inr hr)) s⟩
  · exact fun r => ⟨fun _ hr => readReg_ignoreCommand (ne_status_of_mayChange (.inl hr)) s,
      fun _ hr => readReg_ignoreCommand (ne_status_of_mayChange (.inr hr)) s⟩
  · exact commandFrame_enterError i _ _ fun _ _ => rfl
  · exact commandFrame_finishCommand hrule

/-- Settles O49: a byte of the window is a byte of the register at its offset. -/
theorem windowFrameOfEveryCommand : Obligations.WindowFrameOfEveryCommand := by
  intro i s t h off _
  obtain ⟨hok, herr⟩ := commandFrame_exec h (regAt off)
  have hbyte : readReg t (regAt off) = readReg s (regAt off) → windowByte t off = windowByte s off := by
    intro hread
    rw [windowByte, windowByte, windowWord, windowWord, hread]
  exact ⟨fun hne hr => hbyte (hok hne hr), fun he hr => hbyte (herr he hr)⟩

end Sys2Proof.Machine

/-! PROOF. The fractional part (40_numerics.md R58), the parts of an evaluation (42_generation.md R82, R94), and the
rounding of real numbers (40_numerics.md R52, R59). -/

namespace Sys2Proof.Machine

/-! ### `FRAC` -/

/-- At most 100 digits at a small negative exponent are a value of the format. -/
theorem exists_canonical_of_digits {m : Nat} (hm : m < 10 ^ 100) {e : Int} (hlow : -100 ≤ e) (hhigh : e ≤ 0) :
    ∃ u : HPV, u.canonical = true ∧ u.toRat = m * (10 : ℚ) ^ e := by
  rcases Nat.eq_zero_or_pos m with rfl | hpos
  · exact ⟨HPV.zero, rfl, by simp⟩
  · obtain ⟨k, hk⟩ := Nat.exists_eq_add_of_le ((decLen_le_iff m 100).2 hm)
    have hfull := padded_bounds hpos hk.symm
    refine ⟨⟨false, m * 10 ^ k, e - k⟩, (canonical_iff _).2 (Or.inr ⟨hfull, ?_⟩), ?_⟩
    · show -32768 ≤ e - k ∧ e - k ≤ 32767
      omega
    · rw [HPV.toRat_eq, zpow_sub₀ (by norm_num), zpow_natCast]
      push_cast
      field_simp

/-- The fractional part of a value that is not negative is a value of the format: the value itself below 1, and
else the digits behind the point. -/
theorem exists_canonical_fract {v : HPV} (h : v.canonical = true) (hs : v.s = false) :
    ∃ u : HPV, u.canonical = true ∧ u.toRat = v.toRat - (⌊v.toRat⌋ : ℚ) := by
  obtain ⟨-, -, hc⟩ := canonical_bounds h
  have hval : v.toRat = v.c * (10 : ℚ) ^ v.e := by simp [HPV.toRat_eq, hs]
  rcases le_or_gt 0 v.e with he | he
  · exact ⟨HPV.zero, rfl, by rw [floor_toRat_of_exp_nonneg he, sub_self, HPV.zero_toRat]⟩
  rcases lt_or_ge v.toRat 1 with hone | hone
  · have hfloor : ⌊v.toRat⌋ = 0 := Int.floor_eq_zero_iff.2 ⟨by rw [hval]; positivity, hone⟩
    exact ⟨v, h, by rw [hfloor, Int.cast_zero, sub_zero]⟩
  · have hlow : -100 ≤ v.e := by
      by_contra hsmall
      have : v.toRat < 1 := by
        calc v.toRat = v.c * (10 : ℚ) ^ v.e := hval
          _ < (10 : ℚ) ^ 100 * (10 : ℚ) ^ v.e := by gcongr; exact_mod_cast hc
          _ ≤ (10 : ℚ) ^ 100 * (10 : ℚ) ^ (-100 : Int) := by
            have hexp : v.e ≤ -100 := by omega
            gcongr
            norm_num
          _ = 1 := by norm_num
      exact hone.not_gt this
    obtain ⟨n, hn⟩ := Int.exists_eq_neg_ofNat he.le
    have hdiv : v.toRat = (v.c : ℚ) / ((10 ^ n : Nat) : ℚ) := by
      rw [hval, hn, zpow_neg, zpow_natCast, div_eq_mul_inv]
      push_cast
      rfl
    obtain ⟨u, hu, huval⟩ := exists_canonical_of_digits (m := v.c % 10 ^ n) (lt_of_le_of_lt (Nat.mod_le _ _) hc)
      hlow he.le
    refine ⟨u, hu, huval.trans ?_⟩
    have hsplit : (v.c : ℚ) = ((v.c / 10 ^ n : Nat) : ℚ) * ((10 ^ n : Nat) : ℚ) + ((v.c % 10 ^ n : Nat) : ℚ) := by
      exact_mod_cast (Nat.div_add_mod' v.c (10 ^ n)).symm
    have hpow : ((10 ^ n : Nat) : ℚ) ≠ 0 := by positivity
    have hfloor : ⌊(v.c : ℚ) / ((10 ^ n : Nat) : ℚ)⌋ = ((v.c / 10 ^ n : Nat) : Int) :=
      Rat.floor_natCast_div_natCast _ _
    rw [hdiv, hfloor, Int.cast_natCast, hn, zpow_neg, zpow_natCast, eq_sub_iff_add_eq,
      eq_div_iff hpow]
    conv_rhs => rw [hsplit]
    push_cast
    field_simp
    ring

theorem toRat_eq_zero_iff {v : HPV} (h : v.canonical = true) : v.toRat = 0 ↔ v.c = 0 := by
  rcases (canonical_iff v).1 h with rfl | ⟨hv, -⟩
  · exact ⟨fun _ => rfl, fun _ => HPV.zero_toRat⟩
  · have hc : v.c ≠ 0 := (lt_of_lt_of_le (by positivity) hv.1).ne'
    exact ⟨fun h0 => absurd h0 hv.toRat_ne_zero, fun h0 => absurd h0 hc⟩

/-- An exact result that is a value of the format is that value. -/
theorem ofExact_toRat {u : HPV} (h : u.canonical = true) : ofExact u.toRat = some u := by
  simp only [ofExact, roundRaw_toRat h, canonical_exp_inRange h, and_self, if_true]

theorem ofExact_eq_none {q : ℚ} (h : ∀ u : HPV, u.canonical = true → u.toRat ≠ q) : ofExact q = none := by
  simp only [ofExact]
  rw [if_neg]
  rintro ⟨hval, hrange⟩
  exact h _ (roundRaw_canonical hrange) hval

/-- `FRAC` loses precision when a value that is not zero has fewer than `QMIN(B)` fractional digits. -/
def FracShort (B : Nat) (v : HPV) : Prop := v.c ≠ 0 ∧ (Config.precision : Int) - 1 - v.adj < qmin B

theorem hpFrac_short {B : Nat} {v : HPV} (h : FracShort B v) : hpFrac B v = .error .precisionLoss := if_pos h

theorem hpFrac_exact {B : Nat} {v u : HPV} (h : ¬ FracShort B v) (hu : u.canonical = true)
    (hval : u.toRat = v.toRat - (⌊v.toRat⌋ : ℚ)) : hpFrac B v = .ok u := by
  have hexact : ofExact (v.toRat - (v.toRat.floor : ℚ)) = some u := hval ▸ ofExact_toRat hu
  rw [FracShort] at h
  rw [hpFrac, if_neg h, hexact]

theorem hpFrac_not_representable {B : Nat} {v : HPV} (h : ¬ FracShort B v)
    (hu : ∀ u : HPV, u.canonical = true → u.toRat ≠ v.toRat - (⌊v.toRat⌋ : ℚ)) :
    hpFrac B v = .error .fracNotRepresentable := by
  have hexact : ofExact (v.toRat - (v.toRat.floor : ℚ)) = none := ofExact_eq_none hu
  rw [FracShort] at h
  rw [hpFrac, if_neg h, hexact]

/-- Settles O20: a fractional part in the format is given, and one outside it comes from a negative value. -/
theorem fracIsCheckedFractionalPart : Obligations.FracIsCheckedFractionalPart := by
  refine ⟨by decide, fun B v h => ?_⟩
  intro f short
  have hshort : short ↔ FracShort B v := by
    simp only [short, FracShort, ne_eq, toRat_eq_zero_iff h, HPV.adj, Config.precision, Nat.cast_ofNat]
  rw [hshort]
  refine ⟨hpFrac_short, fun hlong => ?_⟩
  by_cases hex : ∃ u : HPV, u.canonical = true ∧ u.toRat = f
  · obtain ⟨u, hu, hval⟩ := hex
    exact Or.inl ⟨u, hu, hval, sub_nonneg.2 (Int.floor_le _), sub_lt_iff_lt_add'.2 (Int.lt_floor_add_one _),
      hpFrac_exact hlong hu hval⟩
  · have hnone : ∀ u : HPV, u.canonical = true → u.toRat ≠ f := fun u hu hval => hex ⟨u, hu, hval⟩
    have hs : v.s = true := by
      by_contra hs
      exact hex (exists_canonical_fract h (Bool.not_eq_true _ ▸ hs))
    exact Or.inr ⟨hnone, hs, hpFrac_not_representable hlong hnone⟩

/-! ### The parts of an evaluation -/

/-- Settles O32: `FLOOR` and `FRAC` are exact, and the scaled value and its length are those of the fraction. -/
theorem publishedPartsAddUp : Obligations.PublishedPartsAddUp := by
  intro a k n r hlow _ hcanonical h
  obtain ⟨hnonneg, hlt, hscale, hlenlow, hlenhigh⟩ := evaluate_bounds h hlow
  obtain ⟨-, -, -, hx⟩ := evaluate_ok h
  obtain ⟨-, hint, hfrac, hscaled, -⟩ := extract_ok hx
  refine ⟨?sum, hnonneg, hlt, ?scaled, hlenlow, hlenhigh⟩
  case sum =>
    rw [hint, (hpFloor_spec hcanonical).2, (hpFrac_ok hfrac).1]
    exact add_sub_cancel _ _
  case scaled =>
    rw [hscaled, BitVec.toNat_ofNat]
    exact (Nat.mod_le _ _).trans_lt hscale

/-! ### Rounding a real number -/

/-- As `RoundsTo`, for the magnitude of a real number. -/
structure RealRoundsTo (x : ℝ) (c : Nat) (e : Int) : Prop where
  lower : (10 : ℝ) ^ (e + 99) ≤ x
  upper : x < (10 : ℝ) ^ (e + 100)
  near : |(c : ℝ) - x / (10 : ℝ) ^ e| ≤ 1 / 2
  even : |(c : ℝ) - x / (10 : ℝ) ^ e| = 1 / 2 → c % 2 = 0

theorem isRounding_iff (y : ℝ) (v : HPV) :
    IsRounding y v ↔ (y = 0 ∧ v = HPV.zero) ∨
      (y ≠ 0 ∧ ∃ (s : Bool) (c : Nat) (e : Int), RealRoundsTo |y| c e ∧ (s = true ↔ y < 0) ∧ v = carryOut s c e) := by
  constructor
  · rintro (h | ⟨hy, s, c, e, hlow, hhigh, hnear, heven, hs, hv⟩)
    · exact Or.inl h
    · exact Or.inr ⟨hy, s, c, e, ⟨hlow, hhigh, hnear, heven⟩, hs, hv⟩
  · rintro (h | ⟨hy, s, c, e, ⟨hlow, hhigh, hnear, heven⟩, hs, hv⟩)
    · exact Or.inl h
    · exact Or.inr ⟨hy, s, c, e, hlow, hhigh, hnear, heven, hs, hv⟩

theorem RoundsTo.cast {x : ℚ} {c : Nat} {e : Int} (h : RoundsTo x c e) : RealRoundsTo (x : ℝ) c e := by
  obtain ⟨hlow, hhigh, hnear, heven⟩ := h
  have hcast : |(c : ℝ) - (x : ℝ) / (10 : ℝ) ^ e| = ((|(c : ℚ) - x / (10 : ℚ) ^ e| : ℚ) : ℝ) := by push_cast; rfl
  have hhalf : (1 / 2 : ℝ) = ((1 / 2 : ℚ) : ℝ) := by push_cast; rfl
  refine ⟨?_, ?_, ?_, ?_⟩
  · simpa using (Rat.cast_le (K := ℝ)).2 hlow
  · simpa using (Rat.cast_lt (K := ℝ)).2 hhigh
  · rw [hcast, hhalf]
    exact Rat.cast_le.2 hnear
  · rw [hcast, hhalf, Rat.cast_inj]
    exact heven

/-- The raw rounding of a rational is its rounding as a real number. -/
theorem isRounding_roundRaw (q : ℚ) : IsRounding (q : ℝ) (roundRaw q) := by
  rw [isRounding_iff]
  rcases eq_or_ne q 0 with rfl | hq
  · exact Or.inl ⟨Rat.cast_zero, roundRaw_zero⟩
  · obtain ⟨c, e, hround, hraw⟩ := roundRaw_spec hq
    refine Or.inr ⟨Rat.cast_ne_zero.2 hq, _, c, e, ?_, ?_, hraw⟩
    · rw [← Rat.cast_abs]
      exact hround.cast
    · rw [decide_eq_true_iff, Rat.cast_lt_zero]

section RealRoundsTo

variable {x x₁ x₂ : ℝ} {c c₁ c₂ : Nat} {e e₁ e₂ : Int}

theorem RealRoundsTo.scaled_bounds (h : RealRoundsTo x c e) :
    (10 : ℝ) ^ 99 ≤ x / (10 : ℝ) ^ e ∧ x / (10 : ℝ) ^ e < (10 : ℝ) ^ 100 := by
  have hpos : (0 : ℝ) < 10 ^ e := by positivity
  rw [le_div_iff₀ hpos, div_lt_iff₀ hpos, ← zpow_natCast, ← zpow_natCast, ← zpow_add₀ (by norm_num),
    ← zpow_add₀ (by norm_num), add_comm _ e, add_comm _ e]
  exact ⟨h.lower, h.upper⟩

theorem RealRoundsTo.coeff_bounds (h : RealRoundsTo x c e) : 10 ^ 99 ≤ c ∧ c ≤ 10 ^ 100 := by
  obtain ⟨hlow, hhigh⟩ := h.scaled_bounds
  obtain ⟨hbelow, habove⟩ := abs_le.1 h.near
  have hc1 : ((10 ^ 99 : Nat) : ℝ) < ((c + 1 : Nat) : ℝ) := by push_cast; linarith
  have hc2 : (c : ℝ) < ((10 ^ 100 + 1 : Nat) : ℝ) := by push_cast; linarith
  exact ⟨Nat.lt_succ_iff.1 (Nat.cast_lt.1 hc1), Nat.lt_succ_iff.1 (Nat.cast_lt.1 hc2)⟩

/-- Greater magnitudes have no smaller decade. -/
theorem RealRoundsTo.exp_mono (h₁ : RealRoundsTo x₁ c₁ e₁) (h₂ : RealRoundsTo x₂ c₂ e₂) (hle : x₁ ≤ x₂) :
    e₁ ≤ e₂ := by
  have h : (10 : ℝ) ^ (e₁ + 99) < (10 : ℝ) ^ (e₂ + 100) := (h₁.lower.trans hle).trans_lt h₂.upper
  have := (zpow_lt_zpow_iff_right₀ (by norm_num)).1 h
  omega

/-- The two forms in which one value can be rounded: the same coefficient and exponent, or a carry. -/
theorem carryOut_eq_cases {s₁ s₂ : Bool} (hcarry : carryOut s₁ c₁ e₁ = carryOut s₂ c₂ e₂)
    (hle : e₁ ≤ e₂) : s₁ = s₂ ∧ ((c₁ = c₂ ∧ e₁ = e₂) ∨ (c₁ = 10 ^ 100 ∧ c₂ = 10 ^ 99 ∧ e₂ = e₁ + 1)) := by
  unfold carryOut at hcarry
  split_ifs at hcarry with hc₁ hc₂ hc₂
  · obtain ⟨hs, -, he⟩ := HPV.mk.inj hcarry
    exact ⟨hs, Or.inl ⟨hc₁.trans hc₂.symm, by omega⟩⟩
  · obtain ⟨hs, hc, he⟩ := HPV.mk.inj hcarry
    exact ⟨hs, Or.inr ⟨hc₁, hc.symm, he.symm⟩⟩
  · obtain ⟨hs, hc, he⟩ := HPV.mk.inj hcarry
    omega
  · obtain ⟨hs, hc, he⟩ := HPV.mk.inj hcarry
    exact ⟨hs, Or.inl ⟨hc, he⟩⟩

/-- Magnitudes between two of the same coefficient and exponent have these too: a tie between them is a tie of an
end. -/
theorem RealRoundsTo.between (h₁ : RealRoundsTo x₁ c e) (h₂ : RealRoundsTo x₂ c e) (hle₁ : x₁ ≤ x) (hle₂ : x ≤ x₂) :
    RealRoundsTo x c e := by
  have hpos : (0 : ℝ) < 10 ^ e := by positivity
  have hd₁ : x₁ / (10 : ℝ) ^ e ≤ x / (10 : ℝ) ^ e := by gcongr
  have hd₂ : x / (10 : ℝ) ^ e ≤ x₂ / (10 : ℝ) ^ e := by gcongr
  obtain ⟨hlow₁, hhigh₁⟩ := abs_le.1 h₁.near
  obtain ⟨hlow₂, hhigh₂⟩ := abs_le.1 h₂.near
  refine ⟨h₁.lower.trans hle₁, hle₂.trans_lt h₂.upper, abs_le.2 ⟨by linarith, by linarith⟩, fun htie => ?_⟩
  rcases eq_or_eq_neg_of_abs_eq htie with heq | heq
  · exact h₁.even (by rw [abs_of_nonneg] <;> linarith)
  · exact h₂.even (by rw [abs_of_nonpos] <;> linarith)

/-- Magnitudes between two that are rounded to one value are rounded to it too. -/
theorem RealRoundsTo.exists_between {s : Bool} (h₁ : RealRoundsTo x₁ c₁ e₁) (h₂ : RealRoundsTo x₂ c₂ e₂)
    (hcarry : carryOut s c₁ e₁ = carryOut s c₂ e₂) (hle₁ : x₁ ≤ x) (hle₂ : x ≤ x₂) :
    ∃ c e, RealRoundsTo x c e ∧ carryOut s c e = carryOut s c₁ e₁ := by
  obtain ⟨-, ⟨rfl, rfl⟩ | ⟨rfl, rfl, rfl⟩⟩ :=
    carryOut_eq_cases hcarry (h₁.exp_mono h₂ (hle₁.trans hle₂))
  · exact ⟨c₁, e₁, h₁.between h₂ hle₁ hle₂, rfl⟩
  rcases lt_or_ge x ((10 : ℝ) ^ (e₁ + 100)) with hx | hx
  · have hpos : (0 : ℝ) < 10 ^ e₁ := by positivity
    have hd₁ : x₁ / (10 : ℝ) ^ e₁ ≤ x / (10 : ℝ) ^ e₁ := by gcongr
    have hd : x / (10 : ℝ) ^ e₁ < (10 : ℝ) ^ 100 := by
      rwa [div_lt_iff₀ hpos, ← zpow_natCast, ← zpow_add₀ (by norm_num), add_comm]
    obtain ⟨-, hhigh₁⟩ := abs_le.1 h₁.near
    push_cast at hhigh₁
    refine ⟨10 ^ 100, e₁, ⟨h₁.lower.trans hle₁, hx, ?_, fun _ => by norm_num⟩, rfl⟩
    push_cast
    rw [abs_of_pos] <;> linarith
  · have hpos : (0 : ℝ) < 10 ^ (e₁ + 1) := by positivity
    have hd₂ : x / (10 : ℝ) ^ (e₁ + 1) ≤ x₂ / (10 : ℝ) ^ (e₁ + 1) := by gcongr
    have hd : (10 : ℝ) ^ 99 ≤ x / (10 : ℝ) ^ (e₁ + 1) := by
      rw [le_div_iff₀ hpos, ← zpow_natCast, ← zpow_add₀ (by norm_num)]
      convert hx using 2
      omega
    obtain ⟨hlow₂, -⟩ := abs_le.1 h₂.near
    push_cast at hlow₂
    refine ⟨10 ^ 99, e₁ + 1, ⟨?_, hle₂.trans_lt h₂.upper, ?_, fun _ => by norm_num⟩, hcarry.symm⟩
    · rwa [add_assoc]
    · push_cast
      rw [abs_of_nonpos] <;> linarith

end RealRoundsTo

theorem carryOut_ne_zero {s : Bool} {c : Nat} (e : Int) (h : 10 ^ 99 ≤ c ∧ c ≤ 10 ^ 100) :
    carryOut s c e ≠ HPV.zero := by
  intro hzero
  have hfull := (carryOut_fullCoeff s e h).1
  rw [hzero] at hfull
  exact absurd hfull (by decide +kernel)

/-- Every real number between two with one rounding has that rounding. -/
theorem IsRounding.between {lo hi y : ℝ} {v : HPV} (hlo : IsRounding lo v) (hhi : IsRounding hi v) (h₁ : lo ≤ y)
    (h₂ : y ≤ hi) : IsRounding y v := by
  rw [isRounding_iff] at hlo hhi ⊢
  rcases hlo with ⟨rfl, rfl⟩ | ⟨hlo0, s₁, c₁, e₁, hr₁, hs₁, rfl⟩
  · rcases hhi with ⟨rfl, -⟩ | ⟨-, s₂, c₂, e₂, hr₂, -, hv⟩
    · exact Or.inl ⟨le_antisymm h₂ h₁, rfl⟩
    · exact absurd hv.symm (carryOut_ne_zero e₂ hr₂.coeff_bounds)
  · rcases hhi with ⟨-, hv⟩ | ⟨hhi0, s₂, c₂, e₂, hr₂, hs₂, hv⟩
    · exact absurd hv (carryOut_ne_zero e₁ hr₁.coeff_bounds)
    have hsign : ∀ (s : Bool) (c : Nat) (e : Int), (carryOut s c e).s = s := by
      intro s c e
      unfold carryOut
      split <;> rfl
    obtain rfl : s₁ = s₂ := by rw [← hsign s₁ c₁ e₁, hv, hsign]
    refine Or.inr ?_
    cases s₁ with
    | false =>
      have hpos : 0 < lo := lt_of_le_of_ne (not_lt.1 fun h => by simpa using hs₁.2 h) hlo0.symm
      have hy : 0 < y := hpos.trans_le h₁
      rw [abs_of_pos hpos] at hr₁
      rw [abs_of_pos (hy.trans_le h₂)] at hr₂
      obtain ⟨c, e, hr, hc⟩ := hr₁.exists_between hr₂ hv h₁ h₂
      exact ⟨hy.ne', false, c, e, by rwa [abs_of_pos hy], by simp [hy.le], hc.symm⟩
    | true =>
      have hneg : hi < 0 := hs₂.1 rfl
      have hy : y < 0 := h₂.trans_lt hneg
      rw [abs_of_neg (h₁.trans_lt hy)] at hr₁
      rw [abs_of_neg hneg] at hr₂
      obtain ⟨c, e, hr, hc⟩ := hr₂.exists_between hr₁ hv.symm (neg_le_neg h₂) (neg_le_neg h₁)
      exact ⟨hy.ne, true, c, e, by rwa [abs_of_neg hy], by simp [hy], hv.trans hc.symm⟩

theorem settle_eq_some {I : Enclosure} {v : HPV} (h : settle I = some v) : roundRaw I.lo = v ∧ roundRaw I.hi = v := by
  unfold settle at h
  split_ifs at h with heq
  rw [Option.some.injEq] at h
  exact ⟨h, heq ▸ h⟩

/-- A decided enclosure of a number gives its rounding. -/
theorem isRounding_of_settle {I : Enclosure} {y : ℝ} {v : HPV} (hlo : (I.lo : ℝ) ≤ y) (hhi : y ≤ (I.hi : ℝ))
    (h : settle I = some v) : IsRounding y v := by
  obtain ⟨h₁, h₂⟩ := settle_eq_some h
  exact (h₁ ▸ isRounding_roundRaw I.lo).between (h₂ ▸ isRounding_roundRaw I.hi) hlo hhi

/-! ### No value of the format is nearer -/

theorem abs_toRat_carryOut (s : Bool) (c : Nat) (e : Int) : |(carryOut s c e).toRat| = c * (10 : ℚ) ^ e := by
  rw [HPV.abs_toRat]
  unfold carryOut
  split_ifs with h
  · rw [h, zpow_add₀ (by norm_num)]
    push_cast
    ring
  · rfl

theorem RealRoundsTo.toRat_carryOut {y : ℝ} {s : Bool} {c : Nat} {e : Int} (h : RealRoundsTo |y| c e)
    (hs : s = true ↔ y < 0) : |((carryOut s c e).toRat : ℝ) - y| = |c * (10 : ℝ) ^ e - (|y|)| := by
  have hfull := carryOut_fullCoeff s e h.coeff_bounds
  have hsign : (carryOut s c e).s = s := by
    unfold carryOut
    split <;> rfl
  have habs : |((carryOut s c e).toRat : ℝ)| = c * (10 : ℝ) ^ e := by
    rw [← Rat.cast_abs, abs_toRat_carryOut]
    push_cast
    rfl
  have hneg : ((carryOut s c e).toRat : ℝ) < 0 ↔ y < 0 := by
    rw [Rat.cast_lt_zero, hfull.toRat_neg_iff, hsign, hs]
  rw [← habs]
  rcases lt_or_ge y 0 with hy | hy
  · rw [abs_of_neg hy, abs_of_neg (hneg.2 hy), ← abs_neg]
    congr 1
    ring
  · rw [abs_of_nonneg hy, abs_of_nonneg (not_lt.1 fun h => hy.not_gt (hneg.1 h))]

/-- No multiple of `10^e` is nearer than the rounded one. -/
theorem RealRoundsTo.nearest_multiple {x : ℝ} {c : Nat} {e : Int} (h : RealRoundsTo x c e) (m : Nat) :
    |c * (10 : ℝ) ^ e - x| ≤ |m * (10 : ℝ) ^ e - x| := by
  have hpos : (0 : ℝ) < 10 ^ e := by positivity
  have scale : ∀ n : Nat, |n * (10 : ℝ) ^ e - x| = |(n : ℝ) - x / (10 : ℝ) ^ e| * (10 : ℝ) ^ e := by
    intro n
    rw [← abs_of_pos hpos, ← abs_mul, abs_of_pos hpos, sub_mul, div_mul_cancel₀ _ hpos.ne']
  rw [scale, scale]
  refine mul_le_mul_of_nonneg_right ?_ hpos.le
  rcases eq_or_ne m c with rfl | hne
  · exact le_rfl
  · have hone : (1 : ℝ) ≤ |(m : ℝ) - c| := by
      have : (1 : ℤ) ≤ |(m : ℤ) - c| := Int.one_le_abs (sub_ne_zero.2 (by exact_mod_cast hne))
      exact_mod_cast this
    have htri := abs_sub_le (m : ℝ) (x / (10 : ℝ) ^ e) c
    rw [abs_sub_comm (x / (10 : ℝ) ^ e)] at htri
    linarith [h.near]

/-- No value of the format is nearer than the rounded magnitude: it is a multiple of `10^e`, or it is below the
decade of `x`, whose first number is one. -/
theorem RealRoundsTo.nearest {x : ℝ} {c : Nat} {e : Int} (h : RealRoundsTo x c e) {u : HPV}
    (hu : u.c < 10 ^ 100) : |c * (10 : ℝ) ^ e - x| ≤ |u.c * (10 : ℝ) ^ u.e - x| := by
  rcases le_or_gt e u.e with he | he
  · obtain ⟨n, hn⟩ := Int.le.dest he
    have hmul : (u.c : ℝ) * (10 : ℝ) ^ u.e = ((u.c * 10 ^ n : Nat) : ℝ) * (10 : ℝ) ^ e := by
      rw [← hn, zpow_add₀ (by norm_num), zpow_natCast]
      push_cast
      ring
    rw [hmul]
    exact h.nearest_multiple _
  · have hbelow : (u.c : ℝ) * (10 : ℝ) ^ u.e ≤ ((10 ^ 99 : Nat) : ℝ) * (10 : ℝ) ^ e := by
      calc (u.c : ℝ) * (10 : ℝ) ^ u.e ≤ (10 : ℝ) ^ 100 * (10 : ℝ) ^ (e - 1) := by
            gcongr
            · exact_mod_cast hu.le
            · norm_num
            · omega
        _ = ((10 ^ 99 : Nat) : ℝ) * (10 : ℝ) ^ e := by
            rw [zpow_sub₀ (by norm_num)]
            push_cast
            ring
    have hdecade : ((10 ^ 99 : Nat) : ℝ) * (10 : ℝ) ^ e ≤ x := by
      refine le_trans (le_of_eq ?_) h.lower
      rw [add_comm, zpow_add₀ (by norm_num)]
      push_cast
      norm_cast
    refine (h.nearest_multiple (10 ^ 99)).trans ?_
    rw [abs_of_nonpos (by linarith), abs_of_nonpos (by linarith)]
    linarith

theorem nearest_of_isRounding {y : ℝ} {v u : HPV} (hv : IsRounding y v) (hu : u.canonical = true) :
    |(v.toRat : ℝ) - y| ≤ |(u.toRat : ℝ) - y| := by
  rcases (isRounding_iff y v).1 hv with ⟨rfl, rfl⟩ | ⟨-, s, c, e, hr, hs, rfl⟩
  · simp
  · obtain ⟨-, -, hc⟩ := canonical_bounds hu
    have habs : |(u.toRat : ℝ)| = u.c * (10 : ℝ) ^ u.e := by
      rw [← Rat.cast_abs, HPV.abs_toRat]
      push_cast
      rfl
    calc |((carryOut s c e).toRat : ℝ) - y| = |c * (10 : ℝ) ^ e - (|y|)| := hr.toRat_carryOut hs
      _ ≤ |(|(u.toRat : ℝ)| - |y|)| := habs ▸ hr.nearest hc
      _ ≤ |(u.toRat : ℝ) - y| := abs_abs_sub_abs_le_abs_sub _ _

/-- Settles O25: the two ends of a decided enclosure are rounded to one value, and so is all between them. -/
theorem decidedRoundingIsNearest : Obligations.DecidedRoundingIsNearest := by
  refine ⟨fun I y v => isRounding_of_settle, fun f ds y v hall h => ?search, fun y v u => nearest_of_isRounding⟩
  case search =>
    obtain ⟨d, hd, hsettle⟩ := ziv_decided h
    obtain ⟨hlo, hhi⟩ := hall d hd
    exact isRounding_of_settle hlo hhi hsettle

end Sys2Proof.Machine

/-! PROOF. The exponential (40_numerics.md R59): the enclosures hold it, `exp` of every value is correctly rounded,
and where its result is beyond the exponent range. -/

namespace Sys2Proof.Machine

/-! ### The series and its remainder -/

/-- From the `n`-th term on, the exponential series on `[0, 1]` is that term times a factor of `[0, 2]`. -/
theorem exp_series_remainder {y : ℝ} (h0 : 0 ≤ y) (h1 : y ≤ 1) {n : Nat} (hn : 0 < n) :
    ∃ r : ℝ, (0 ≤ r ∧ r ≤ 2) ∧
      Real.exp y = (∑ m ∈ Finset.range n, y ^ m / m.factorial) + y ^ n / n.factorial * r := by
  rcases h0.eq_or_lt with rfl | hpos
  · obtain ⟨m, rfl⟩ := Nat.exists_eq_add_of_lt hn
    refine ⟨0, by norm_num, ?_⟩
    rw [zero_add, Finset.sum_range_succ']
    simp
  · have hlow := Real.sum_le_exp_of_nonneg h0 n
    have hhigh := Real.exp_bound' h0 h1 hn
    have hterm : 0 < y ^ n / n.factorial := by positivity
    have hn1 : (1 : ℝ) ≤ n := by exact_mod_cast hn
    refine ⟨(Real.exp y - ∑ m ∈ Finset.range n, y ^ m / m.factorial) / (y ^ n / n.factorial),
      ⟨div_nonneg (sub_nonneg.2 hlow) hterm.le, ?_⟩, ?_⟩
    · have htail : y ^ n * (n + 1) / (n.factorial * n) ≤ 2 * (y ^ n / n.factorial) := by
        rw [mul_comm (n.factorial : ℝ), mul_comm (y ^ n), mul_div_mul_comm]
        refine mul_le_mul_of_nonneg_right ?_ hterm.le
        rw [div_le_iff₀ (by linarith)]
        linarith
      rw [div_le_iff₀ hterm]
      linarith
    · rw [mul_div_cancel₀ _ hterm.ne', add_sub_cancel]

/-- The interval of the remainder factors from 0 to `m`. -/
theorem remainder_contains (d : Nat) {r : ℝ} {m : Int} (h0 : 0 ≤ r) (hm : r ≤ m) :
    Fixed.contains d r ⟨0, m * unit d⟩ := by
  have hp : (0 : ℝ) < 10 ^ d := by positivity
  constructor
  · push_cast
    positivity
  · push_cast
    rw [unit_cast]
    exact mul_le_mul_of_nonneg_right hm hp.le

theorem expSeries_contains_exp {d n : Nat} {y : ℝ} {X : Fixed} (hX : X.contains d y) (h0 : 0 ≤ y) (h1 : y ≤ 1)
    (hn : 0 < n) : (expSeries d X n ⟨0, 2 * unit d⟩).contains d (Real.exp y) := by
  obtain ⟨r, ⟨hr0, hr2⟩, hexp⟩ := exp_series_remainder h0 h1 hn
  rw [hexp]
  exact expSeries_contains hX n r _ (remainder_contains d hr0 (by exact_mod_cast hr2))

theorem fixSquare_contains {d : Nat} (k : Nat) {x : ℝ} {I : Fixed} (h : I.contains d x) :
    (fixSquare d k I).contains d (x ^ 2 ^ k) := by
  induction k generalizing x I with
  | zero => simpa [fixSquare] using h
  | succ k ih =>
    rw [fixSquare, pow_succ', pow_mul, pow_two]
    exact ih (fixMul_contains h h)

/-! ### The argument of the series -/

theorem mkRat_one_pow (k : Nat) : mkRat 1 (2 ^ k) = 1 / 2 ^ k := by
  rw [Rat.mkRat_eq_div]
  push_cast
  rfl

/-- Halved as often as `halvings` says, the argument is in `[0, 1]`. -/
theorem halved_bounds {x : ℚ} (h : 0 ≤ x) :
    0 ≤ x * mkRat 1 (2 ^ halvings x) ∧ x * mkRat 1 (2 ^ halvings x) ≤ 1 := by
  rw [mkRat_one_pow, mul_one_div]
  refine ⟨by positivity, (div_le_one (by positivity)).2 ?_⟩
  have hfloor : 0 ≤ x.floor := Int.floor_nonneg.2 h
  have hnat : x.floor.toNat + 1 ≤ 2 ^ halvings x := Nat.lt_log2_self
  have hcast : ((x.floor.toNat : Nat) : ℚ) = (x.floor : ℚ) := by exact_mod_cast Int.toNat_of_nonneg hfloor
  have hlt : x < (x.floor : ℚ) + 1 := by exact_mod_cast Rat.lt_floor_add_one x
  calc x ≤ ((x.floor.toNat + 1 : Nat) : ℚ) := by push_cast; rw [hcast]; exact hlt.le
    _ ≤ 2 ^ halvings x := by exact_mod_cast hnat

theorem halvings_pos (x : ℚ) : 0 < halvings x := Nat.succ_pos _

theorem expFix_contains (d : Nat) {x : ℚ} (h : 0 ≤ x) :
    (expFix d x).contains (d + halvings x) (Real.exp x) := by
  obtain ⟨h0, h1⟩ := halved_bounds h
  have hseries := expSeries_contains_exp (n := d + halvings x) (fixOf_contains (d + halvings x) _)
    (by exact_mod_cast h0) (by exact_mod_cast h1) (Nat.add_pos_right d (halvings_pos x))
  have hpow : Real.exp x = Real.exp ((x * mkRat 1 (2 ^ halvings x) : ℚ) : ℝ) ^ 2 ^ halvings x := by
    rw [← Real.exp_nat_mul, mkRat_one_pow]
    push_cast
    congr 1
    field_simp
  rw [hpow]
  exact fixSquare_contains _ hseries

/-! ### The ends are positive, so that the reciprocal of an enclosure is one -/

/-- Both ends are at least `b`. -/
def Fixed.AtLeast (b : Int) (I : Fixed) : Prop := b ≤ I.lo ∧ b ≤ I.hi

theorem le_minInt {a b c : Int} (ha : c ≤ a) (hb : c ≤ b) : c ≤ minInt a b := by
  unfold minInt
  split <;> assumption

theorem le_maxInt {a b c : Int} (ha : c ≤ a) (hb : c ≤ b) : c ≤ maxInt a b := by
  unfold maxInt
  split <;> assumption

theorem le_divDown {a b c : Int} (hb : 0 < b) (h : c * b ≤ a) : c ≤ divDown a b := Int.le_ediv_of_mul_le hb h

theorem le_divUp_of_mul_le {a b c : Int} (hb : 0 < b) (h : c * b ≤ a) : c ≤ divUp a b := by
  have hneg : -a / b ≤ -c := Int.ediv_le_of_le_mul hb (by rw [neg_mul]; exact neg_le_neg h)
  unfold divUp
  omega

theorem fixMul_atLeast {d : Nat} {b p q : Int} {I J : Fixed} (hp : 0 ≤ p) (hq : 0 ≤ q) (hI : I.AtLeast p)
    (hJ : J.AtLeast q) (h : b * unit d ≤ p * q) : (fixMul d I J).AtLeast b := by
  obtain ⟨hIlo, hIhi⟩ := hI
  obtain ⟨hJlo, hJhi⟩ := hJ
  have corner : ∀ {x y : Int}, p ≤ x → q ≤ y → b * unit d ≤ x * y := fun hx hy =>
    h.trans (mul_le_mul hx hy hq (hp.trans hx))
  exact ⟨le_divDown (unit_pos d) (le_minInt (le_minInt (corner hIlo hJlo) (corner hIlo hJhi))
      (le_minInt (corner hIhi hJlo) (corner hIhi hJhi))),
    le_divUp_of_mul_le (unit_pos d) (le_maxInt (le_maxInt (corner hIlo hJlo) (corner hIlo hJhi))
      (le_maxInt (corner hIhi hJlo) (corner hIhi hJhi)))⟩

theorem fixOf_atLeast_zero {q : ℚ} (h : 0 ≤ q) (d : Nat) : (fixOf d q).AtLeast 0 := by
  have hden : (0 : Int) < q.den := by exact_mod_cast q.den_pos
  have hnum : (0 : Int) * q.den ≤ q.num * unit d := by
    rw [zero_mul]
    exact mul_nonneg (Rat.num_nonneg.2 h) (unit_pos d).le
  exact ⟨le_divDown hden hnum, le_divUp_of_mul_le hden hnum⟩

/-- One Horner step from an interval that is not negative is at least 1. -/
theorem expStep_atLeast {d j : Nat} {X I : Fixed} (hX : X.AtLeast 0) (hI : I.AtLeast 0) :
    (fixAdd (fixInt d 1) (fixDiv (j + 1) (fixMul d X I))).AtLeast (unit d) := by
  obtain ⟨hlo, hhi⟩ := fixMul_atLeast (d := d) (b := 0) le_rfl le_rfl hX hI (by simp)
  have hj : (0 : Int) < ((j + 1 : Nat) : Int) := by positivity
  have h1 : 0 ≤ divDown (fixMul d X I).lo ((j + 1 : Nat) : Int) := le_divDown hj (by rwa [zero_mul])
  have h2 : 0 ≤ divUp (fixMul d X I).hi ((j + 1 : Nat) : Int) := le_divUp_of_mul_le hj (by rwa [zero_mul])
  simp only [Fixed.AtLeast, fixAdd, fixInt, fixDiv, one_mul]
  exact ⟨by linarith, by linarith⟩

theorem expSeries_atLeast {d : Nat} {X : Fixed} (hX : X.AtLeast 0) (n : Nat) {I : Fixed} (hI : I.AtLeast (unit d)) :
    (expSeries d X n I).AtLeast (unit d) := by
  have hu := unit_pos d
  induction n generalizing I with
  | zero => exact hI
  | succ n ih => exact ih (expStep_atLeast hX ⟨hu.le.trans hI.1, hu.le.trans hI.2⟩)

theorem fixSquare_atLeast {d : Nat} (k : Nat) {I : Fixed} (hI : I.AtLeast (unit d)) :
    (fixSquare d k I).AtLeast (unit d) := by
  have hu := (unit_pos d).le
  induction k generalizing I with
  | zero => exact hI
  | succ k ih => exact ih (fixMul_atLeast hu hu hI hI le_rfl)

theorem expFix_lo_pos (d : Nat) {x : ℚ} (h : 0 ≤ x) : 0 < (expFix d x).lo := by
  have hX := fixOf_atLeast_zero (halved_bounds h).1 (d + halvings x)
  obtain ⟨n, hn⟩ := Nat.exists_eq_succ_of_ne_zero (Nat.add_pos_right d (halvings_pos x)).ne'
  have hseries : (expSeries (d + halvings x) (fixOf (d + halvings x) (x * mkRat 1 (2 ^ halvings x)))
      (d + halvings x) ⟨0, 2 * unit (d + halvings x)⟩).AtLeast (unit (d + halvings x)) := by
    have hzero : Fixed.AtLeast 0 ⟨0, 2 * unit (d + halvings x)⟩ :=
      ⟨le_rfl, mul_nonneg (by norm_num) (unit_pos _).le⟩
    conv => enter [2, 3]; rw [hn]
    exact expSeries_atLeast hX n (expStep_atLeast hX hzero)
  exact (unit_pos _).trans_le (fixSquare_atLeast _ hseries).1

theorem encOf_lo_pos {d : Nat} {I : Fixed} (h : 0 < I.lo) : 0 < (encOf d I).lo := by
  have hlo : (0 : ℚ) < I.lo := by exact_mod_cast h
  simp only [encOf, Rat.mkRat_eq_div]
  positivity

theorem expEnc_contains (d : Nat) (x : ℚ) :
    ((expEnc d x).lo : ℝ) ≤ Real.exp x ∧ Real.exp x ≤ ((expEnc d x).hi : ℝ) := by
  unfold expEnc
  split_ifs with hneg
  · have hx : 0 ≤ -x := by linarith
    obtain ⟨hlo, hhi⟩ := encOf_contains (expFix_contains d hx)
    have hpos : (0 : ℝ) < (encOf (d + halvings (-x)) (expFix d (-x))).lo := by
      exact_mod_cast encOf_lo_pos (expFix_lo_pos d hx)
    have hexp : Real.exp x = 1 / Real.exp ((-x : ℚ) : ℝ) := by
      rw [Rat.cast_neg, Real.exp_neg, one_div, inv_inv]
    rw [hexp]
    push_cast at hlo hhi ⊢
    exact ⟨one_div_le_one_div_of_le (Real.exp_pos _) hhi, one_div_le_one_div_of_le hpos hlo⟩
  · exact encOf_contains (expFix_contains d (not_lt.1 hneg))

/-! ### Results beyond the exponent range -/

/-- The rounding of a magnitude of at least `10^n` has an exponent of at least `n - 99`. -/
theorem le_exponent_of_isRounding {y : ℝ} {r : HPV} {n : Int} (hr : IsRounding y r) (h : (10 : ℝ) ^ n ≤ |y|) :
    n - 99 ≤ r.e := by
  rcases (isRounding_iff y r).1 hr with ⟨rfl, -⟩ | ⟨-, s, c, e, hround, -, rfl⟩
  · have : (0 : ℝ) < 10 ^ n := by positivity
    rw [abs_zero] at h
    exact absurd h this.not_ge
  · have hlt := (zpow_lt_zpow_iff_right₀ (by norm_num)).1 (h.trans_lt hround.upper)
    unfold carryOut
    split
    · show n - 99 ≤ e + 1
      omega
    · show n - 99 ≤ e
      omega

/-- The rounding of a magnitude of at most `10^n` that is not zero has an exponent of at most `n - 98`. -/
theorem exponent_le_of_isRounding {y : ℝ} {r : HPV} {n : Int} (hr : IsRounding y r) (h0 : y ≠ 0)
    (h : |y| ≤ (10 : ℝ) ^ n) : r.e ≤ n - 98 := by
  rcases (isRounding_iff y r).1 hr with ⟨hy, -⟩ | ⟨-, s, c, e, hround, -, rfl⟩
  · exact absurd hy h0
  · have hle := (zpow_le_zpow_iff_right₀ (by norm_num)).1 (hround.lower.trans h)
    unfold carryOut
    split
    · show e + 1 ≤ n - 98
      omega
    · show e ≤ n - 98
      omega

/-- `e^(10 n)` is at least `10^n`. -/
theorem pow_ten_le_exp (n : Nat) : (10 : ℝ) ^ n ≤ Real.exp (10 * n) := by
  have htwo : (2 : ℝ) ≤ Real.exp 1 := by linarith [Real.add_one_le_exp (1 : ℝ)]
  have hten : (10 : ℝ) ≤ Real.exp 10 := by
    calc (10 : ℝ) ≤ 2 ^ 10 := by norm_num
      _ ≤ Real.exp 1 ^ 10 := by gcongr
      _ = Real.exp 10 := by rw [← Real.exp_nat_mul]; norm_num
  calc (10 : ℝ) ^ n ≤ Real.exp 10 ^ n := by gcongr
    _ = Real.exp (10 * n) := by rw [← Real.exp_nat_mul, mul_comm]

/-- The exponential of an argument from `10^6` on is at least `10^100000`. -/
theorem zpow_le_exp_of_million {x : ℝ} (hx : 1000000 ≤ x) {n : Int} (hn : n ≤ 100000) :
    (10 : ℝ) ^ n ≤ Real.exp x := by
  calc (10 : ℝ) ^ n ≤ (10 : ℝ) ^ ((100000 : Nat) : Int) := zpow_le_zpow_right₀ (by norm_num) (by omega)
    _ = (10 : ℝ) ^ (100000 : Nat) := zpow_natCast _ _
    _ ≤ Real.exp (10 * (100000 : Nat)) := pow_ten_le_exp _
    _ ≤ Real.exp x := Real.exp_le_exp.2 (by push_cast; linarith)

theorem exp_le_zpow_of_million {x : ℝ} (hx : x ≤ -1000000) {n : Int} (hn : -100000 ≤ n) :
    Real.exp x ≤ (10 : ℝ) ^ n := by
  have h := zpow_le_exp_of_million (x := -x) (by linarith) (n := -n) (by omega)
  rw [zpow_neg, Real.exp_neg] at h
  exact (inv_le_inv₀ (by positivity) (Real.exp_pos x)).1 h

/-! ### `exp` -/

/-- The model takes an argument as huge by its leading digit, that is from `10^6` on. -/
theorem huge_iff {v : HPV} (h : v.canonical = true) : (v.c ≠ 0 ∧ 6 ≤ v.adj) ↔ 1000000 ≤ |v.toRat| := by
  rcases (canonical_iff v).1 h with rfl | ⟨⟨hlow, hhigh⟩, -⟩
  · rw [HPV.zero_toRat, abs_zero]
    exact iff_of_false (fun hzero => hzero.1 rfl) (by norm_num)
  have hc : v.c ≠ 0 := (lt_of_lt_of_le (by positivity) hlow).ne'
  have hadj : v.adj = v.e + 99 := by
    simp only [HPV.adj, Config.precision]
    omega
  have hmillion : (1000000 : ℚ) = (10 : ℚ) ^ 99 * (10 : ℚ) ^ (-93 : Int) := by norm_num
  rw [hadj, v.abs_toRat, and_iff_right hc]
  constructor
  · intro hadj6
    rw [hmillion]
    have hexp : -93 ≤ v.e := by omega
    gcongr
    · exact_mod_cast hlow
    · norm_num
  · intro hle
    by_contra hsmall
    have hexp : v.e ≤ -94 := by omega
    have : v.c * (10 : ℚ) ^ v.e < 1000000 := by
      calc v.c * (10 : ℚ) ^ v.e < (10 : ℚ) ^ 100 * (10 : ℚ) ^ v.e := by
            gcongr
            exact_mod_cast hhigh
        _ ≤ (10 : ℚ) ^ 100 * (10 : ℚ) ^ (-94 : Int) := by
            gcongr
            norm_num
        _ = 1000000 := by norm_num
    exact this.not_ge hle

theorem hpExp_huge {v : HPV} (h : v.canonical = true) (hv : 1000000 ≤ |v.toRat|) : hpExp v = .error .expRange :=
  if_pos ((huge_iff h).2 hv)

/-- A huge argument is one from `10^6` on, or up to `-10^6`. -/
theorem million_cases {x : ℚ} (h : 1000000 ≤ |x|) : (1000000 : ℝ) ≤ x ∨ (x : ℝ) ≤ -1000000 := by
  rcases le_abs.1 h with h | h
  · exact Or.inl (by exact_mod_cast h)
  · exact Or.inr (by exact_mod_cast (by linarith : x ≤ -1000000))

theorem expInRange_of_huge {x : ℚ} (h : 1000000 ≤ |x|) {r : HPV} (hr : IsRounding (Real.exp x) r) :
    ¬ (-32768 ≤ r.e ∧ r.e ≤ 32767) := by
  have hpos := Real.exp_pos (x : ℝ)
  rcases million_cases h with hx | hx
  · have := le_exponent_of_isRounding (n := 50000) hr (by
      rw [abs_of_pos hpos]
      exact zpow_le_exp_of_million hx (by norm_num))
    omega
  · have := exponent_le_of_isRounding (n := -50000) hr hpos.ne' (by
      rw [abs_of_pos hpos]
      exact exp_le_zpow_of_million hx (by norm_num))
    omega

/-- Every rounding that the model gives for the exponential is the correct one. -/
theorem isRounding_roundEnclosed_exp (x : ℚ) :
    IsRounding (Real.exp x) (roundEnclosed (fun d => expEnc d x) (IsRounding (Real.exp x)) (exists_isRounding _)) :=
  roundEnclosed_sound _ fun d _ hd => isRounding_of_settle (expEnc_contains d x).1 (expEnc_contains d x).2 hd

theorem hpExp_spec {v : HPV} (h : v.canonical = true) : ∃ r : HPV, IsRounding (Real.exp (v.toRat : ℝ)) r ∧
    hpExp v = if -32768 ≤ r.e ∧ r.e ≤ 32767 then .ok r else .error .expRange := by
  by_cases hv : 1000000 ≤ |v.toRat|
  · obtain ⟨r, hr⟩ := exists_isRounding (Real.exp (v.toRat : ℝ))
    exact ⟨r, hr, by rw [hpExp_huge h hv, if_neg (expInRange_of_huge hv hr)]⟩
  · refine ⟨_, isRounding_roundEnclosed_exp v.toRat, ?_⟩
    rw [hpExp, if_neg (mt (huge_iff h).1 hv)]
    simp only [checkExp, expInRange_iff]

/-- Settles O22: the enclosures hold the exponential, so a decided one rounds it. -/
theorem expEnclosureContainsExp : Obligations.ExpEnclosureContainsExp :=
  ⟨expEnc_contains, fun _ => hpExp_spec⟩

/-! ### Corner cases -/

theorem hpLn_nonpos {v : HPV} (h : v.canonical = true) (hv : v.toRat ≤ 0) : hpLn v = .error .lnDomain := by
  refine if_pos ?_
  rcases (canonical_iff v).1 h with rfl | ⟨hfull, -⟩
  · exact Or.inl rfl
  · exact Or.inr (hfull.toRat_neg_iff.1 (lt_of_le_of_ne hv hfull.toRat_ne_zero))

/-- A positive value passes the domain check of `ln`. -/
theorem ln_domain {v : HPV} (h : v.canonical = true) (hv : 0 < v.toRat) : ¬ (v.c = 0 ∨ v.s = true) := by
  rcases (canonical_iff v).1 h with rfl | ⟨hfull, -⟩
  · rw [HPV.zero_toRat] at hv
    exact absurd hv (lt_irrefl _)
  · rintro (hc | hs)
    · exact hv.ne' ((toRat_eq_zero_iff h).2 hc)
    · exact hv.not_gt (hfull.toRat_neg_iff.2 hs)

theorem hpLn_one {v : HPV} (h : v.canonical = true) (hv : v.toRat = 1) : hpLn v = .ok HPV.zero := by
  rw [hpLn, if_neg (ln_domain h (by rw [hv]; norm_num)), if_pos hv]

/-- Settles O26: the domain check of `ln`, its exact value at 1, and the size of huge exponentials. -/
theorem elementaryCornerCases : Obligations.ElementaryCornerCases := by
  refine ⟨fun v => hpLn_nonpos, fun v => hpLn_one, fun v h hv =>
    ⟨hpExp_huge h hv, fun hpos => ?large, fun hneg => ?small⟩⟩
  case large =>
    rcases million_cases hv with hx | hx
    · exact zpow_le_exp_of_million hx (by norm_num)
    · have : (0 : ℝ) < v.toRat := by exact_mod_cast hpos
      linarith
  case small =>
    rcases million_cases hv with hx | hx
    · have : (v.toRat : ℝ) < 0 := by exact_mod_cast hneg
      linarith
    · exact exp_le_zpow_of_million hx (by norm_num)

end Sys2Proof.Machine

/-! PROOF. The logarithm and the cosine (40_numerics.md R59): the odd series of the inverse hyperbolic and of the
circular tangent, the enclosure of π by Machin's formula, and the remainder of the cosine series. -/

namespace Sys2Proof.Machine

/-! ### The odd series and its remainder -/

/-- The remainder factor of the odd series from its `n`-th term on: `sum w^j / (2 (n + j) + 1)`. -/
noncomputable def oddRest (w : ℝ) (n : Nat) : ℝ := ∑' j : Nat, w ^ j / (2 * ((n + j : Nat) : ℝ) + 1)

section OddSeries

variable {w : ℝ}

theorem abs_oddTerm_le (w : ℝ) (n j : Nat) :
    |w ^ j / (2 * ((n + j : Nat) : ℝ) + 1)| ≤ |w| ^ j / (2 * n + 1) := by
  have hn : (0 : ℝ) < 2 * n + 1 := by positivity
  have hnj : (2 * n + 1 : ℝ) ≤ 2 * ((n + j : Nat) : ℝ) + 1 := by
    push_cast
    linarith [Nat.cast_nonneg (α := ℝ) j]
  rw [abs_div, abs_pow, abs_of_pos (hn.trans_le hnj)]
  gcongr

theorem summable_oddTerm (hw : |w| < 1) (n : Nat) : Summable fun j : Nat => w ^ j / (2 * ((n + j : Nat) : ℝ) + 1) := by
  have hgeo : Summable fun j : Nat => |w| ^ j / (2 * n + 1) :=
    (summable_geometric_of_lt_one (abs_nonneg w) hw).div_const _
  exact Summable.of_abs (Summable.of_nonneg_of_le (fun _ => abs_nonneg _) (abs_oddTerm_le w n) hgeo)

/-- The remainder is at most a geometric series. -/
theorem abs_oddRest_le (hw : |w| < 1) (n : Nat) : |oddRest w n| ≤ 1 / (1 - |w|) / (2 * n + 1) := by
  have hgeo : HasSum (fun j : Nat => |w| ^ j / (2 * n + 1)) ((1 - |w|)⁻¹ / (2 * n + 1)) :=
    (hasSum_geometric_of_lt_one (abs_nonneg w) hw).div_const _
  rw [one_div]
  exact tsum_of_norm_bounded hgeo fun j => (Real.norm_eq_abs _).trans_le (abs_oddTerm_le w n j)

/-- The first term of the remainder, and the rest of it. -/
theorem oddRest_succ (hw : |w| < 1) (n : Nat) : oddRest w n = 1 / (2 * n + 1) + w * oddRest w (n + 1) := by
  have hshift : ∀ j : Nat, w ^ (j + 1) / (2 * ((n + (j + 1) : Nat) : ℝ) + 1)
      = w * (w ^ j / (2 * ((n + 1 + j : Nat) : ℝ) + 1)) := by
    intro j
    rw [pow_succ', mul_div_assoc, Nat.add_right_comm n 1 j, Nat.add_assoc]
  rw [oddRest, (summable_oddTerm hw n).tsum_eq_zero_add, oddRest]
  simp only [hshift]
  rw [tsum_mul_left]
  simp

/-- The series, cut after `n` terms. -/
theorem oddRest_zero_eq (hw : |w| < 1) (n : Nat) :
    oddRest w 0 = (∑ j ∈ Finset.range n, w ^ j / (2 * j + 1)) + w ^ n * oddRest w n := by
  induction n with
  | zero => simp
  | succ n ih =>
    rw [ih, oddRest_succ hw n, Finset.sum_range_succ, pow_succ]
    ring

/-- On `[0, 1/2]` the remainder factor lies in `[0, 2]`. -/
theorem oddRest_bounds_of_nonneg (h0 : 0 ≤ w) (h1 : w ≤ 1 / 2) (n : Nat) : 0 ≤ oddRest w n ∧ oddRest w n ≤ 2 := by
  have hw : |w| < 1 := by rw [abs_of_nonneg h0]; linarith
  refine ⟨tsum_nonneg fun j => by positivity, ?_⟩
  have hn : (1 : ℝ) ≤ 2 * n + 1 := by linarith [Nat.cast_nonneg (α := ℝ) n]
  have hgeo : 1 / (1 - |w|) ≤ 2 := by
    rw [abs_of_nonneg h0, div_le_iff₀ (by linarith)]
    linarith
  calc oddRest w n ≤ |oddRest w n| := le_abs_self _
    _ ≤ 1 / (1 - |w|) / (2 * n + 1) := abs_oddRest_le hw n
    _ ≤ 2 / 1 := by gcongr
    _ = 2 := by norm_num

/-- On `[-1/4, 0]` the remainder factor lies in `[0, 1]`: its first term outweighs the rest. -/
theorem oddRest_nonneg_of_nonpos (h0 : w ≤ 0) (h1 : -(1 / 4) ≤ w) (n : Nat) : 0 ≤ oddRest w n := by
  have habs : |w| = -w := abs_of_nonpos h0
  have hw : |w| < 1 := by rw [habs]; linarith
  have hn : (0 : ℝ) < 2 * n + 1 := by positivity
  have hgeo : 1 / (1 - |w|) ≤ 4 / 3 := by
    rw [habs, div_le_iff₀ (by linarith)]
    linarith
  have hrest : |oddRest w (n + 1)| ≤ 4 / 3 / (2 * n + 1) := by
    refine (abs_oddRest_le hw (n + 1)).trans ?_
    have hle : (2 * n + 1 : ℝ) ≤ 2 * ((n + 1 : Nat) : ℝ) + 1 := by push_cast; linarith
    gcongr
  have hprod : |w * oddRest w (n + 1)| ≤ 1 / 4 * (4 / 3 / (2 * n + 1)) := by
    rw [abs_mul]
    gcongr
    rw [habs]
    linarith
  have hsmall : 1 / 4 * (4 / 3 / (2 * n + 1 : ℝ)) ≤ 1 / (2 * n + 1) := by
    rw [← mul_div_assoc]
    gcongr
    norm_num
  rw [oddRest_succ hw]
  linarith [neg_abs_le (w * oddRest w (n + 1))]

theorem oddRest_bounds_of_nonpos (h0 : w ≤ 0) (h1 : -(1 / 4) ≤ w) (n : Nat) : 0 ≤ oddRest w n ∧ oddRest w n ≤ 1 := by
  have hw : |w| < 1 := by rw [abs_of_nonpos h0]; linarith
  refine ⟨oddRest_nonneg_of_nonpos h0 h1 n, ?_⟩
  have hnext := mul_nonpos_of_nonpos_of_nonneg h0 (oddRest_nonneg_of_nonpos h0 h1 (n + 1))
  have hfirst : 1 / (2 * n + 1 : ℝ) ≤ 1 := by
    rw [div_le_one (by positivity)]
    linarith [Nat.cast_nonneg (α := ℝ) n]
  rw [oddRest_succ hw]
  linarith

/-- The Horner steps of the odd series, from an interval that holds the remainder factor. -/
theorem oddSeries_contains_oddRest {d : Nat} {W : Fixed} (hW : W.contains d w) (hw : |w| < 1) (n : Nat) {m : Int}
    (h0 : 0 ≤ oddRest w n) (hm : oddRest w n ≤ m) :
    (oddSeries d W n ⟨0, m * unit d⟩).contains d (oddRest w 0) := by
  rw [oddRest_zero_eq hw n]
  exact oddSeries_contains hW n _ _ (remainder_contains d h0 hm)

end OddSeries

/-! ### The logarithm -/

/-- `2 atanh z`, as the odd series at `z^2`. -/
theorem log_eq_oddRest {z : ℝ} (hz : |z| < 1) : Real.log ((1 + z) / (1 - z)) = 2 * (z * oddRest (z * z) 0) := by
  obtain ⟨hlow, hhigh⟩ := abs_lt.1 hz
  have hsum := Real.hasSum_log_sub_log_of_abs_lt_one hz
  rw [Real.log_div (by linarith) (by linarith), ← hsum.tsum_eq, oddRest, ← tsum_mul_left, ← tsum_mul_left]
  refine tsum_congr fun j => ?_
  rw [zero_add, pow_succ, pow_mul, pow_two]
  ring

/-- The enclosure of `2 atanh z` holds the logarithm that it stands for. -/
theorem twoAtanhFix_contains {d : Nat} {z : ℝ} {Z : Fixed} (hZ : Z.contains d z) (hz : |z| ≤ 1 / 3) :
    (twoAtanhFix d Z).contains d (Real.log ((1 + z) / (1 - z))) := by
  have hsq : z * z ≤ 1 / 2 := by
    have := mul_le_mul hz hz (abs_nonneg z) (by norm_num)
    rw [abs_mul_abs_self] at this
    linarith
  have hw : |z * z| < 1 := by rw [abs_of_nonneg (mul_self_nonneg z)]; linarith
  obtain ⟨h0, h2⟩ := oddRest_bounds_of_nonneg (mul_self_nonneg z) hsq (d + d / 8 + 8)
  rw [log_eq_oddRest (by linarith)]
  have := fixScale_contains 2 (fixMul_contains hZ (oddSeries_contains_oddRest (m := 2) (fixMul_contains hZ hZ) hw
    (d + d / 8 + 8) h0 (by exact_mod_cast h2)))
  exact_mod_cast this

theorem log2_bounds {n : Nat} (h : n ≠ 0) : (2 : ℚ) ^ Nat.log2 n ≤ n ∧ (n : ℚ) < 2 * 2 ^ Nat.log2 n := by
  have hlow := Nat.log2_self_le h
  have hhigh : n < 2 ^ (Nat.log2 n + 1) := Nat.lt_log2_self
  rw [pow_succ'] at hhigh
  exact ⟨by exact_mod_cast hlow, by exact_mod_cast hhigh⟩

theorem scaleByTwo_eq (x : ℚ) (k : Int) : scaleByTwo x k = x / (2 : ℚ) ^ k := by
  have hsplit : (2 : ℚ) ^ k.toNat = (2 : ℚ) ^ k * (2 : ℚ) ^ (-k).toNat := by
    rw [← zpow_natCast, ← zpow_natCast, ← zpow_add₀ (by norm_num)]
    congr 1
    omega
  rw [scaleByTwo, Rat.mkRat_eq_div]
  push_cast
  rw [hsplit, div_mul_cancel_right₀ (by positivity), ← div_eq_mul_inv]

/-- The scaled argument of `ln` lies between 1/2 and 2. -/
theorem scaleByTwo_bounds {x : ℚ} (h : 0 < x) :
    1 / 2 < scaleByTwo x (binaryExponent x) ∧ scaleByTwo x (binaryExponent x) < 2 := by
  have hnum : x.num.natAbs ≠ 0 := Int.natAbs_ne_zero.2 (Rat.num_ne_zero.2 h.ne')
  obtain ⟨hn1, hn2⟩ := log2_bounds hnum
  obtain ⟨hd1, hd2⟩ := log2_bounds x.den_ne_zero
  have hx : x = (x.num.natAbs : ℚ) / x.den := by
    have habs : ((x.num.natAbs : Nat) : ℚ) = (x.num : ℚ) := by
      rw [Nat.cast_natAbs, abs_of_nonneg (Rat.num_nonneg.2 h.le)]
    rw [habs, Rat.num_div_den]
  have hden : (0 : ℚ) < x.den := by exact_mod_cast x.den_pos
  have hscaled : scaleByTwo x (binaryExponent x)
      = ((x.num.natAbs : ℚ) / 2 ^ Nat.log2 x.num.natAbs) / ((x.den : ℚ) / 2 ^ Nat.log2 x.den) := by
    rw [scaleByTwo_eq, binaryExponent, zpow_sub₀ (by norm_num), zpow_natCast, zpow_natCast]
    nth_rewrite 1 [hx]
    field_simp
  have ha1 : 1 ≤ (x.num.natAbs : ℚ) / 2 ^ Nat.log2 x.num.natAbs := (one_le_div (by positivity)).2 hn1
  have ha2 : (x.num.natAbs : ℚ) / 2 ^ Nat.log2 x.num.natAbs < 2 := (div_lt_iff₀ (by positivity)).2 hn2
  have hb1 : 1 ≤ (x.den : ℚ) / 2 ^ Nat.log2 x.den := (one_le_div (by positivity)).2 hd1
  have hb2 : (x.den : ℚ) / 2 ^ Nat.log2 x.den < 2 := (div_lt_iff₀ (by positivity)).2 hd2
  rw [hscaled, lt_div_iff₀ (by linarith), div_lt_iff₀ (by linarith)]
  exact ⟨by linarith, by linarith⟩

theorem lnEnc_contains (d : Nat) {x : ℚ} (h : 0 < x) :
    ((lnEnc d x).lo : ℝ) ≤ Real.log x ∧ Real.log x ≤ ((lnEnc d x).hi : ℝ) := by
  obtain ⟨hlow, hhigh⟩ := scaleByTwo_bounds h
  have hk : scaleByTwo x (binaryExponent x) = x / (2 : ℚ) ^ binaryExponent x := scaleByTwo_eq x _
  unfold lnEnc
  simp only
  generalize scaleByTwo x (binaryExponent x) = m at hlow hhigh hk ⊢
  generalize binaryExponent x = k at hk ⊢
  have hm : (0 : ℝ) < m := by exact_mod_cast (by linarith : 0 < m)
  have hlogx : Real.log x = k * Real.log 2 + Real.log m := by
    have hx : (x : ℝ) = 2 ^ k * m := by
      rw [hk]
      push_cast
      field_simp
    rw [hx, Real.log_mul (by positivity) hm.ne', Real.log_zpow]
  have hthird : Real.log 2 = Real.log ((1 + ((mkRat 1 3 : ℚ) : ℝ)) / (1 - ((mkRat 1 3 : ℚ) : ℝ))) := by
    rw [Rat.mkRat_eq_div]
    norm_num
  have hz : ((((m - 1) / (m + 1) : ℚ)) : ℝ) = ((m : ℝ) - 1) / (m + 1) := by push_cast; rfl
  have hlogm : Real.log m = Real.log ((1 + (((m - 1) / (m + 1) : ℚ) : ℝ)) / (1 - (((m - 1) / (m + 1) : ℚ) : ℝ))) := by
    rw [hz]
    congr 1
    field_simp
    ring
  have hz3 : |(((m - 1) / (m + 1) : ℚ) : ℝ)| ≤ 1 / 3 := by
    have : |(m - 1) / (m + 1)| ≤ 1 / 3 := by
      rw [abs_le, le_div_iff₀ (by linarith), div_le_iff₀ (by linarith)]
      exact ⟨by linarith, by linarith⟩
    rw [← Rat.cast_abs, show (1 / 3 : ℝ) = ((1 / 3 : ℚ) : ℝ) by norm_num]
    exact Rat.cast_le.2 this
  have hthird3 : |((mkRat 1 3 : ℚ) : ℝ)| ≤ 1 / 3 := by
    rw [Rat.mkRat_eq_div]
    norm_num
  have hall := fixAdd_contains (fixScale_contains k (twoAtanhFix_contains (fixOf_contains (d + 8) (mkRat 1 3)) hthird3))
    (twoAtanhFix_contains (fixOf_contains (d + 8) ((m - 1) / (m + 1))) hz3)
  rw [← hthird, ← hlogm, ← hlogx] at hall
  exact encOf_contains hall

theorem isRounding_roundEnclosed_log {x : ℚ} (h : 0 < x) :
    IsRounding (Real.log x) (roundEnclosed (fun d => lnEnc d x) (IsRounding (Real.log x)) (exists_isRounding _)) :=
  roundEnclosed_sound _ fun d _ hd => isRounding_of_settle (lnEnc_contains d h).1 (lnEnc_contains d h).2 hd

theorem hpLn_spec {v : HPV} (h : v.canonical = true) (hv : 0 < v.toRat) :
    ∃ r : HPV, IsRounding (Real.log (v.toRat : ℝ)) r ∧ hpLn v = .ok r := by
  by_cases hone : v.toRat = 1
  · refine ⟨HPV.zero, Or.inl ⟨?_, rfl⟩, hpLn_one h hone⟩
    rw [hone, Rat.cast_one, Real.log_one]
  · exact ⟨_, isRounding_roundEnclosed_log hv, by rw [hpLn, if_neg (ln_domain h hv), if_neg hone]⟩

/-- Settles O23: the enclosures hold the logarithm, so a decided one rounds it; `ln 1` is 0. -/
theorem lnEnclosureContainsLog : Obligations.LnEnclosureContainsLog :=
  ⟨fun d _ => lnEnc_contains d, fun _ => hpLn_spec⟩

/-! ### π -/

theorem arctan_eq_oddRest {x : ℝ} (hx : |x| < 1) : Real.arctan x = x * oddRest (-(x * x)) 0 := by
  rw [← (Real.hasSum_arctan (by simpa using hx)).tsum_eq, oddRest, ← tsum_mul_left]
  refine tsum_congr fun j => ?_
  rw [zero_add, neg_pow, pow_succ, pow_mul, pow_two]
  push_cast
  ring

theorem atanInvFix_contains (d : Nat) {m : Nat} (hm : 2 ≤ m) :
    (atanInvFix d m).contains d (Real.arctan ((m : ℝ)⁻¹)) := by
  have hmr : (2 : ℝ) ≤ m := by exact_mod_cast hm
  have hinv : (m : ℝ)⁻¹ ≤ 1 / 2 := by
    rw [one_div]
    exact inv_anti₀ (by norm_num) hmr
  have hinv0 : (0 : ℝ) < (m : ℝ)⁻¹ := by positivity
  have hsq : (m : ℝ)⁻¹ * (m : ℝ)⁻¹ ≤ 1 / 4 := by
    calc (m : ℝ)⁻¹ * (m : ℝ)⁻¹ ≤ 1 / 2 * (1 / 2) := by gcongr
      _ = 1 / 4 := by norm_num
  have hsq0 : 0 ≤ (m : ℝ)⁻¹ * (m : ℝ)⁻¹ := by positivity
  have harg : ((mkRat (-1) (m * m) : ℚ) : ℝ) = -((m : ℝ)⁻¹ * (m : ℝ)⁻¹) := by
    rw [Rat.mkRat_eq_div]
    push_cast
    rw [neg_div, one_div, mul_inv]
  have hW := fixOf_contains d (mkRat (-1) (m * m))
  rw [harg] at hW
  obtain ⟨h0, h1⟩ := oddRest_bounds_of_nonpos (w := -((m : ℝ)⁻¹ * (m : ℝ)⁻¹)) (by linarith) (by linarith) d
  have hw : |(-((m : ℝ)⁻¹ * (m : ℝ)⁻¹))| < 1 := by
    rw [abs_neg, abs_of_nonneg hsq0]
    linarith
  have hseries := oddSeries_contains_oddRest (m := 1) hW hw d h0 (by exact_mod_cast h1)
  rw [one_mul] at hseries
  rw [arctan_eq_oddRest (by rw [abs_of_pos hinv0]; linarith), inv_mul_eq_div]
  exact fixDiv_contains (by omega) hseries

/-- Machin's formula. -/
theorem piFix_contains (d : Nat) : (piFix d).contains d Real.pi := by
  have h5 := fixScale_contains 16 (atanInvFix_contains d (m := 5) (by norm_num))
  have h239 := fixScale_contains (-4) (atanInvFix_contains d (m := 239) (by norm_num))
  have hpi : Real.pi = ((16 : Int) : ℝ) * Real.arctan (((5 : Nat) : ℝ)⁻¹)
      + ((-4 : Int) : ℝ) * Real.arctan (((239 : Nat) : ℝ)⁻¹) := by
    have := Real.four_mul_arctan_inv_5_sub_arctan_inv_239
    push_cast
    linarith
  rw [hpi]
  exact fixAdd_contains h5 h239

/-! ### The cosine series and its remainder -/

/-- The first `n` terms of the cosine series. -/
noncomputable def cosPoly (n : Nat) (x : ℝ) : ℝ :=
  ∑ j ∈ Finset.range n, (-1) ^ j * (x ^ (2 * j) / (2 * j).factorial)

/-- The first `n` terms of the sine series. -/
noncomputable def sinPoly (n : Nat) (x : ℝ) : ℝ :=
  ∑ j ∈ Finset.range n, (-1) ^ j * (x ^ (2 * j + 1) / (2 * j + 1).factorial)

theorem hasDerivAt_pow_div_factorial (m : Nat) (x : ℝ) :
    HasDerivAt (fun x : ℝ => x ^ (m + 1) / (m + 1).factorial) (x ^ m / m.factorial) x := by
  have h := (hasDerivAt_pow (m + 1) x).div_const ((m + 1).factorial : ℝ)
  have hval : x ^ m / (m.factorial : ℝ) = ((m + 1 : Nat) : ℝ) * x ^ (m + 1 - 1) / ((m + 1).factorial : ℝ) := by
    rw [Nat.factorial_succ, Nat.add_sub_cancel, Nat.cast_mul, mul_div_mul_left _ _ (by positivity)]
  rw [hval]
  exact h

theorem hasDerivAt_sinPoly (n : Nat) (x : ℝ) : HasDerivAt (sinPoly n) (cosPoly n x) x :=
  HasDerivAt.fun_sum fun j _ => (hasDerivAt_pow_div_factorial (2 * j) x).const_mul _

/-- The constant term of `cosPoly` falls away, and the next ones are those of `sinPoly` with the other sign. -/
theorem hasDerivAt_cosPoly (n : Nat) (x : ℝ) : HasDerivAt (cosPoly (n + 1)) (-sinPoly n x) x := by
  have hsum : HasDerivAt (fun x : ℝ => ∑ j ∈ Finset.range n,
      (-1) ^ (j + 1) * (x ^ (2 * j + 1 + 1) / (2 * j + 1 + 1).factorial))
      (∑ j ∈ Finset.range n, (-1) ^ (j + 1) * (x ^ (2 * j + 1) / (2 * j + 1).factorial)) x :=
    HasDerivAt.fun_sum fun j _ => (hasDerivAt_pow_div_factorial (2 * j + 1) x).const_mul _
  have hfun : cosPoly (n + 1) = fun x : ℝ => (∑ j ∈ Finset.range n,
      (-1) ^ (j + 1) * (x ^ (2 * j + 1 + 1) / (2 * j + 1 + 1).factorial)) + 1 := by
    funext y
    rw [cosPoly, Finset.sum_range_succ']
    simp [Nat.mul_add]
  have hval : -sinPoly n x = ∑ j ∈ Finset.range n, (-1) ^ (j + 1) * (x ^ (2 * j + 1) / (2 * j + 1).factorial) := by
    rw [sinPoly, ← Finset.sum_neg_distrib]
    exact Finset.sum_congr rfl fun j _ => by ring
  rw [hfun, hval]
  exact hsum.add_const 1

/-- A function with value 0 at 0 and a derivative of at most `x^m / m!` is at most `x^(m+1) / (m+1)!`. -/
theorem abs_le_of_deriv_le {f g : ℝ → ℝ} {m : Nat} (hf : ∀ x, HasDerivAt f (g x) x) (h0 : f 0 = 0)
    (hg : ∀ x, 0 ≤ x → |g x| ≤ x ^ m / m.factorial) {x : ℝ} (hx : 0 ≤ x) :
    |f x| ≤ x ^ (m + 1) / (m + 1).factorial := by
  refine image_norm_le_of_norm_deriv_right_le_deriv_boundary (a := 0) (b := x)
    (fun y _ => (hf y).continuousAt.continuousWithinAt) (fun y _ => (hf y).hasDerivWithinAt) ?_
    (fun y => hasDerivAt_pow_div_factorial m y) (fun y hy => hg y hy.1) ⟨hx, le_rfl⟩
  simp [h0]

theorem cosPoly_zero (n : Nat) : cosPoly (n + 1) 0 = 1 := by
  rw [cosPoly, Finset.sum_range_succ']
  simp

theorem sinPoly_zero (n : Nat) : sinPoly n 0 = 0 := by
  rw [sinPoly]
  simp

/-- The error of the first `n` terms is at most the next term, for cosine and sine, each from the other by
integration. -/
theorem abs_sub_poly_le (n : Nat) :
    (∀ x : ℝ, 0 ≤ x → |Real.cos x - cosPoly n x| ≤ x ^ (2 * n) / (2 * n).factorial) ∧
      (∀ x : ℝ, 0 ≤ x → |Real.sin x - sinPoly n x| ≤ x ^ (2 * n + 1) / (2 * n + 1).factorial) := by
  have sine : ∀ n : Nat, (∀ x : ℝ, 0 ≤ x → |Real.cos x - cosPoly n x| ≤ x ^ (2 * n) / (2 * n).factorial) →
      ∀ x : ℝ, 0 ≤ x → |Real.sin x - sinPoly n x| ≤ x ^ (2 * n + 1) / (2 * n + 1).factorial := fun n hcos x hx =>
    abs_le_of_deriv_le (fun y => (Real.hasDerivAt_sin y).sub (hasDerivAt_sinPoly n y))
      (by simp [sinPoly_zero]) hcos hx
  induction n with
  | zero =>
    have hcos : ∀ x : ℝ, 0 ≤ x → |Real.cos x - cosPoly 0 x| ≤ x ^ (2 * 0) / (2 * 0).factorial := by
      intro x _
      simpa [cosPoly] using Real.abs_cos_le_one x
    exact ⟨hcos, sine 0 hcos⟩
  | succ n ih =>
    have hcos : ∀ x : ℝ, 0 ≤ x → |Real.cos x - cosPoly (n + 1) x| ≤ x ^ (2 * (n + 1)) / (2 * (n + 1)).factorial := by
      intro x hx
      refine abs_le_of_deriv_le (m := 2 * n + 1)
        (fun y => (Real.hasDerivAt_cos y).sub (hasDerivAt_cosPoly n y)) (by simp [cosPoly_zero]) (fun y hy => ?_) hx
      rw [neg_sub_neg, abs_sub_comm]
      exact ih.2 y hy
    exact ⟨hcos, sine (n + 1) hcos⟩

/-- From the `n`-th term on, the cosine series is that term times a factor of `[-1, 1]`. -/
theorem cos_series_remainder (y : ℝ) {n : Nat} (hn : 0 < n) :
    ∃ r : ℝ, |r| ≤ 1 ∧ Real.cos y = (∑ j ∈ Finset.range n, (-(y * y)) ^ j / (2 * j).factorial)
      + (-(y * y)) ^ n / (2 * n).factorial * r := by
  have hterm : ∀ j : Nat, (-(y * y)) ^ j = (-1) ^ j * |y| ^ (2 * j) := by
    intro j
    rw [pow_mul, pow_two, abs_mul_abs_self, neg_pow]
  have hpoly : ∑ j ∈ Finset.range n, (-(y * y)) ^ j / ((2 * j).factorial : ℝ) = cosPoly n |y| :=
    Finset.sum_congr rfl fun j _ => by rw [hterm, mul_div_assoc]
  have hbound := (abs_sub_poly_le n).1 |y| (abs_nonneg y)
  rw [Real.cos_abs] at hbound
  rw [hpoly]
  rcases eq_or_ne y 0 with rfl | hy
  · refine ⟨0, by simp, ?_⟩
    obtain ⟨m, rfl⟩ := Nat.exists_eq_succ_of_ne_zero hn.ne'
    simp [cosPoly_zero]
  · have hpos : 0 < |y| ^ (2 * n) / ((2 * n).factorial : ℝ) := by positivity
    have hscale : |(-(y * y)) ^ n / ((2 * n).factorial : ℝ)| = |y| ^ (2 * n) / ((2 * n).factorial : ℝ) := by
      rw [hterm, mul_div_assoc, abs_mul, abs_pow, abs_neg, abs_one, one_pow, one_mul, abs_of_pos hpos]
    have hne : (-(y * y)) ^ n / ((2 * n).factorial : ℝ) ≠ 0 := abs_pos.1 (hscale ▸ hpos)
    refine ⟨(Real.cos y - cosPoly n |y|) / ((-(y * y)) ^ n / ((2 * n).factorial : ℝ)), ?_, ?_⟩
    · rw [abs_div, hscale]
      exact (div_le_one hpos).2 hbound
    · rw [mul_div_cancel₀ _ hne, add_sub_cancel]

/-! ### The cosine -/

theorem unit_interval_contains (d : Nat) {r : ℝ} (h : |r| ≤ 1) : Fixed.contains d r ⟨-unit d, unit d⟩ := by
  obtain ⟨hlow, hhigh⟩ := abs_le.1 h
  have hp : (0 : ℝ) < 10 ^ d := by positivity
  simp only [Fixed.contains, Int.cast_neg, unit_cast]
  exact ⟨by nlinarith, by nlinarith⟩

theorem cosSeries_contains_cos {d n : Nat} {y : ℝ} {R : Fixed} (hR : R.contains d y) (hn : 0 < n) :
    (cosSeries d (fixMul d R R) n ⟨-unit d, unit d⟩).contains d (Real.cos y) := by
  obtain ⟨r, hr, hcos⟩ := cos_series_remainder y hn
  rw [hcos]
  exact cosSeries_contains (fixMul_contains hR hR) n r _ (unit_interval_contains d hr)

/-- The parity of the number of half turns is the sign. -/
theorem neg_one_zpow_parity (k : Int) : ((-1 : ℝ)) ^ k = if k % 2 = 0 then 1 else -1 := by
  split_ifs with h
  · exact (Int.even_iff.2 h).neg_one_zpow
  · exact (Int.odd_iff.2 (by omega)).neg_one_zpow

theorem cosEnc_contains (d : Nat) (x : ℚ) :
    ((cosEnc d x).lo : ℝ) ≤ Real.cos x ∧ Real.cos x ≤ ((cosEnc d x).hi : ℝ) := by
  unfold cosEnc
  simp only
  generalize cosScale d x = w
  generalize halfTurns w (piFix w) x = k
  have hR := fixAdd_contains (fixOf_contains w x) (fixScale_contains (-k) (piFix_contains w))
  have hC := cosSeries_contains_cos (n := d / 2 + 10) hR (by omega)
  have hcos : Real.cos ((x : ℝ) + ((-k : Int) : ℝ) * Real.pi) = (-1) ^ k * Real.cos x := by
    rw [← Real.cos_sub_int_mul_pi]
    congr 1
    push_cast
    ring
  rw [hcos, neg_one_zpow_parity] at hC
  refine encOf_contains (d := w) ?_
  split_ifs at hC ⊢ with hk
  · rwa [one_mul] at hC
  · have hneg := fixNeg_contains hC
    rwa [neg_one_mul, neg_neg] at hneg

theorem isRounding_roundEnclosed_cos (x : ℚ) :
    IsRounding (Real.cos x) (roundEnclosed (fun d => cosEnc d x) (IsRounding (Real.cos x)) (exists_isRounding _)) :=
  roundEnclosed_sound _ fun d _ hd => isRounding_of_settle (cosEnc_contains d x).1 (cosEnc_contains d x).2 hd

/-- Settles O24: the enclosures hold the cosine, so a decided one rounds it. -/
theorem cosEnclosureContainsCos : Obligations.CosEnclosureContainsCos :=
  ⟨cosEnc_contains, fun v => ⟨_, isRounding_roundEnclosed_cos v.toRat, rfl⟩⟩

end Sys2Proof.Machine

/-! PROOF. The constant ROM (40_numerics.md R63 to R66): every entry against the number it stands for. -/

namespace Sys2Proof.Machine

/-- Half a unit of the last digit of an entry between 1 and 10. -/
def halfUnit : ℚ := 1 / (2 * 10 ^ 99)

theorem halfUnit_cast : 1 / 2 * (10 : ℝ) ^ (-99 : Int) = (halfUnit : ℝ) := by
  rw [halfUnit, zpow_neg]
  push_cast
  rw [one_div_mul_eq_div, one_div, mul_inv, inv_mul_eq_div]
  norm_cast

/-- A rational is near a number when both ends of an enclosure of it are. -/
theorem near_of_contains {I : Enclosure} {y : ℝ} {q h : ℚ} (hI : I.contains y)
    (hq : q - h ≤ I.lo ∧ I.hi ≤ q + h) : |(q : ℝ) - y| ≤ h := by
  obtain ⟨hlo, hhi⟩ := hI
  have hlo' : (q : ℝ) - h ≤ I.lo := by exact_mod_cast hq.1
  have hhi' : (I.hi : ℝ) ≤ q + h := by exact_mod_cast hq.2
  exact abs_le.2 ⟨by linarith, by linarith⟩

/-- A rational is near a square root when the squares beside it bracket the radicand. -/
theorem near_sqrt {n : Nat} {q h : ℚ} (hq : 0 ≤ q - h ∧ (q - h) ^ 2 ≤ n ∧ (n : ℚ) ≤ (q + h) ^ 2 ∧ 0 ≤ q + h) :
    |(q : ℝ) - √(n : ℝ)| ≤ h := by
  obtain ⟨hpos, hlo, hhi, hpos'⟩ := hq
  have hlo' : (q : ℝ) - h ≤ √(n : ℝ) := Real.le_sqrt_of_sq_le (by exact_mod_cast hlo)
  have hhi' : √(n : ℝ) ≤ q + h := Real.sqrt_le_iff.2 ⟨by exact_mod_cast hpos', by exact_mod_cast hhi⟩
  exact abs_le.2 ⟨by linarith, by linarith⟩

/-! ### The cubic of ρ -/

theorem one_le_of_cubic {x : ℝ} (hx : x ^ 3 = x + 1) : 1 ≤ x := by
  by_contra hlt
  rw [not_le] at hlt
  rcases le_or_gt 0 x with h0 | h0
  · nlinarith [mul_nonneg h0 h0, mul_nonneg h0 (sub_nonneg.2 hlt.le),
      mul_nonneg (mul_nonneg h0 h0) (sub_nonneg.2 hlt.le)]
  · nlinarith [sq_nonneg x, sq_nonneg (x + 1), sq_nonneg (x - 1), mul_pos_of_neg_of_neg h0 h0]

/-- Above 1 the cubic `x^3 - x - 1` increases. -/
theorem cubic_strictMono {a b : ℝ} (ha : 1 ≤ a) (hab : a < b) : a ^ 3 - a < b ^ 3 - b := by
  nlinarith [mul_pos (sub_pos.2 hab) (sub_pos.2 hab), mul_nonneg (sub_nonneg.2 ha) (sub_nonneg.2 hab.le)]

theorem near_cubic {x : ℝ} (hx : x ^ 3 = x + 1) {q h : ℚ}
    (hq : 1 ≤ q - h ∧ (q - h) ^ 3 ≤ q - h + 1 ∧ q + h + 1 ≤ (q + h) ^ 3 ∧ 1 ≤ q + h) : |(q : ℝ) - x| ≤ h := by
  obtain ⟨hone, hlo, hhi, hone'⟩ := hq
  have hx1 := one_le_of_cubic hx
  have hlo' : ((q : ℝ) - h) ^ 3 ≤ q - h + 1 := by exact_mod_cast hlo
  have hhi' : (q : ℝ) + h + 1 ≤ (q + h) ^ 3 := by exact_mod_cast hhi
  have hbelow : (q : ℝ) - h ≤ x := by
    by_contra hlt
    have := cubic_strictMono hx1 (not_le.1 hlt)
    linarith
  have habove : x ≤ q + h := by
    by_contra hlt
    have := cubic_strictMono (by exact_mod_cast hone') (not_le.1 hlt)
    linarith
  exact abs_le.2 ⟨by linarith, by linarith⟩

/-! ### The entries -/

theorem romE_near : |(romE.toRat : ℝ) - Real.exp 1| ≤ halfUnit := by
  have h := expEnc_contains 110 1
  rw [Rat.cast_one] at h
  exact near_of_contains h (by decide +kernel)

theorem romPi_near : |(romPi.toRat : ℝ) - Real.pi| ≤ halfUnit :=
  near_of_contains (encOf_contains (piFix_contains 110)) (by decide +kernel)

theorem romSqrt2_near : |(romSqrt2.toRat : ℝ) - √2| ≤ halfUnit :=
  near_sqrt (n := 2) (by decide +kernel)

theorem romSqrt3_near : |(romSqrt3.toRat : ℝ) - √3| ≤ halfUnit :=
  near_sqrt (n := 3) (by decide +kernel)

/-- φ is near because `2 φ - 1` is near √5, at twice the distance. -/
theorem romPhi_near : |(romPhi.toRat : ℝ) - (1 + √5) / 2| ≤ halfUnit := by
  have h5 : |((2 * romPhi.toRat - 1 : ℚ) : ℝ) - √5| ≤ ((2 * halfUnit : ℚ) : ℝ) :=
    near_sqrt (n := 5) (by decide +kernel)
  push_cast at h5
  obtain ⟨hlo, hhi⟩ := abs_le.1 h5
  exact abs_le.2 ⟨by linarith, by linarith⟩

theorem romRho_near {x : ℝ} (hx : x ^ 3 = x + 1) : |(romRho.toRat : ℝ) - x| ≤ halfUnit :=
  near_cubic hx (by decide +kernel)

theorem rom_canonical (m : ConstMode) (c : ConstName) : (bankGet (rom m) c).canonical = true := by
  cases m <;> cases c <;> decide +kernel

/-- Settles O29: the first five entries are the same in both modes. -/
theorem romConstantsAreNearest : Obligations.RomConstantsAreNearest := by
  unfold Obligations.RomConstantsAreNearest
  intro half
  have hhalf : half = (halfUnit : ℝ) := halfUnit_cast
  rw [hhalf]
  refine ⟨fun m => ?entries, fun x => romRho_near, by decide +kernel, by decide +kernel, by decide +kernel,
    rom_canonical⟩
  case entries =>
    cases m <;> exact ⟨romE_near, romPi_near, romPhi_near, romSqrt2_near, romSqrt3_near⟩

end Sys2Proof.Machine

/-! PROOF. Mixing variant V2 (42_generation.md R80): its chain of Weyl steps, its first failing operation, and the
range of its values. -/

namespace Sys2Proof.Machine

variable {B k : Nat} {n : Int} {c x y : HPV} {err : ArithError}

/-! ### One step -/

theorem weylStep_eq_ok_iff : weylStep B n k c x = .ok y ↔
    ∃ p t u : HPV, roundP ((n ^ k : ℤ) : ℚ) = .ok p ∧ roundP (c.toRat * p.toRat) = .ok t ∧
      roundP (x.toRat + t.toRat) = .ok u ∧ hpFrac B u = .ok y := by
  simp only [weylStep, ofInt, hpMul, hpAdd, bind_eq_ok_iff, exists_and_left]

theorem weylStep_eq_error_iff : weylStep B n k c x = .error err ↔
    roundP ((n ^ k : ℤ) : ℚ) = .error err ∨
      ∃ p, roundP ((n ^ k : ℤ) : ℚ) = .ok p ∧ (roundP (c.toRat * p.toRat) = .error err ∨
        ∃ t, roundP (c.toRat * p.toRat) = .ok t ∧ (roundP (x.toRat + t.toRat) = .error err ∨
          ∃ u, roundP (x.toRat + t.toRat) = .ok u ∧ hpFrac B u = .error err)) := by
  simp only [weylStep, ofInt, hpMul, hpAdd, bind_eq_error_iff]

/-- A step reads its accumulator by its value only. -/
theorem weylSteps_eq_of_toRat_eq (h : x.toRat = y.toRat) (cs : List HPV) :
    weylSteps B n k (c :: cs) x = weylSteps B n k (c :: cs) y := by
  simp only [weylSteps, weylStep, hpAdd, h]

/-! ### The chain of steps -/

/-- The sequence `acc` with `x` in front. -/
def consSeq (x : HPV) (acc : Nat → HPV) : Nat → HPV
  | 0 => x
  | j + 1 => acc j

/-- The first `m` steps of the listed constants, the first of them with power `k`, lead along `acc`. -/
def WeylChain (B : Nat) (n : Int) (k : Nat) (cs : List HPV) (d : HPV) (acc : Nat → HPV) (m : Nat) : Prop :=
  ∀ j, j < m → weylStep B n (k + j) (cs.getD j d) (acc j) = .ok (acc (j + 1))

/-- A chain of `m + 1` steps is its first step and the chain of the others. -/
theorem weylChain_succ_iff {cs : List HPV} {d : HPV} {acc : Nat → HPV} {m : Nat} :
    WeylChain B n k (c :: cs) d acc (m + 1) ↔
      weylStep B n k c (acc 0) = .ok (acc 1) ∧ WeylChain B n (k + 1) cs d (fun j => acc (j + 1)) m := by
  constructor
  · intro h
    refine ⟨h 0 m.succ_pos, fun j hj => ?_⟩
    rw [Nat.add_right_comm, Nat.add_assoc]
    exact h (j + 1) (Nat.succ_lt_succ hj)
  · rintro ⟨hfirst, hrest⟩ (_ | j) hj
    · exact hfirst
    · have := hrest j (Nat.lt_of_succ_lt_succ hj)
      rwa [Nat.add_right_comm, Nat.add_assoc] at this

theorem weylSteps_eq_ok_iff (d : HPV) (cs : List HPV) : weylSteps B n k cs x = .ok y ↔
    ∃ acc : Nat → HPV, acc 0 = x ∧ acc cs.length = y ∧ WeylChain B n k cs d acc cs.length := by
  induction cs generalizing k x with
  | nil =>
    constructor
    · rintro ⟨⟩
      exact ⟨fun _ => y, rfl, rfl, fun j hj => absurd hj j.not_lt_zero⟩
    · rintro ⟨acc, rfl, rfl, -⟩
      rfl
  | cons c cs ih =>
    simp only [weylSteps, bind_eq_ok_iff, ih, List.length_cons, weylChain_succ_iff]
    constructor
    · rintro ⟨_, hstep, acc, rfl, hlast, hchain⟩
      exact ⟨consSeq x acc, rfl, hlast, hstep, hchain⟩
    · rintro ⟨acc, rfl, hlast, hstep, hchain⟩
      exact ⟨_, hstep, _, rfl, hlast, hchain⟩

theorem weylSteps_eq_error_iff (d : HPV) (cs : List HPV) : weylSteps B n k cs x = .error err ↔
    ∃ (acc : Nat → HPV) (m : Nat), m < cs.length ∧ acc 0 = x ∧ WeylChain B n k cs d acc m ∧
      weylStep B n (k + m) (cs.getD m d) (acc m) = .error err := by
  induction cs generalizing k x with
  | nil => exact iff_of_false (fun h => nomatch h) fun ⟨_, m, hm, _⟩ => m.not_lt_zero hm
  | cons c cs ih =>
    simp only [weylSteps, bind_eq_error_iff, ih, List.length_cons]
    constructor
    · rintro (hfail | ⟨_, hstep, acc, m, hm, rfl, hchain, hfail⟩)
      · exact ⟨fun _ => x, 0, Nat.succ_pos _, rfl, fun j hj => absurd hj j.not_lt_zero, hfail⟩
      · refine ⟨consSeq x acc, m + 1, Nat.succ_lt_succ hm, rfl, weylChain_succ_iff.2 ⟨hstep, hchain⟩, ?_⟩
        rwa [Nat.add_right_comm, Nat.add_assoc] at hfail
    · rintro ⟨acc, m, hm, rfl, hchain, hfail⟩
      cases m with
      | zero => exact Or.inl hfail
      | succ m =>
        obtain ⟨hstep, hrest⟩ := weylChain_succ_iff.1 hchain
        refine Or.inr ⟨_, hstep, _, m, Nat.lt_of_succ_lt_succ hm, rfl, hrest, ?_⟩
        rwa [Nat.add_right_comm, Nat.add_assoc]

/-- `MIX_V2` runs from every accumulator of value 0. -/
theorem mixV2_eq_weylSteps (b : ConstantBank) (h : x.toRat = 0) :
    mixV2 B b n = weylSteps B n 1 b.list x :=
  weylSteps_eq_of_toRat_eq (HPV.zero_toRat.trans h.symm) _

/-! ### The range of the values -/

theorem roundRaw_sign {q : ℚ} (hq : q ≠ 0) : (roundRaw q).s = decide (q < 0) := by
  obtain ⟨c, e, -, hraw⟩ := roundRaw_spec hq
  rw [hraw, carryOut]
  split <;> rfl

theorem roundRaw_sign_of_nonneg {q : ℚ} (hq : 0 ≤ q) : (roundRaw q).s = false := by
  rcases hq.eq_or_lt with rfl | hpos
  · rw [roundRaw_zero]
    rfl
  · rw [roundRaw_sign hpos.ne', decide_eq_false hpos.not_gt]

/-- Rounding keeps a positive number within a factor of ten. -/
theorem roundRaw_bounds {q : ℚ} (hq : 0 < q) : q / 10 ≤ (roundRaw q).toRat ∧ (roundRaw q).toRat ≤ 10 * q := by
  obtain ⟨c, e, hround, hraw⟩ := roundRaw_spec hq.ne'
  obtain ⟨hclow, hchigh⟩ := hround.coeff_bounds
  have hval : (roundRaw q).toRat = c * (10 : ℚ) ^ e := by
    rw [← abs_toRat_carryOut (decide (q < 0)) c e, ← hraw, abs_of_nonneg]
    rw [HPV.toRat_eq, roundRaw_sign_of_nonneg hq.le, if_neg Bool.false_ne_true]
    positivity
  have hlower := hround.lower
  have hupper := hround.upper
  rw [abs_of_pos hq, zpow_add₀ (by norm_num)] at hlower hupper
  have hpos : (0 : ℚ) < 10 ^ e := by positivity
  have hlow : (10 : ℚ) ^ 99 * (10 : ℚ) ^ e ≤ c * (10 : ℚ) ^ e :=
    mul_le_mul_of_nonneg_right (by exact_mod_cast hclow) hpos.le
  have hhigh : c * (10 : ℚ) ^ e ≤ (10 : ℚ) ^ 100 * (10 : ℚ) ^ e :=
    mul_le_mul_of_nonneg_right (by exact_mod_cast hchigh) hpos.le
  have h99 : (10 : ℚ) ^ (99 : Int) = 10 ^ 99 := zpow_natCast _ _
  have h100 : (10 : ℚ) ^ (100 : Int) = 10 * 10 ^ 99 := by norm_num
  rw [h99] at hlower
  rw [h100] at hupper
  rw [hval]
  constructor <;> nlinarith

/-- A number of moderate size rounds to a value of the format, of about that size. -/
theorem roundP_of_moderate {q : ℚ} (hlow : 1 / 1000 ≤ q) (hhigh : q ≤ 10 ^ 100) :
    ∃ v, roundP q = .ok v ∧ q / 10 ≤ v.toRat ∧ v.toRat ≤ 10 * q := by
  have hpos : 0 < q := lt_of_lt_of_le (by norm_num) hlow
  have hround := isRounding_roundRaw q
  have hlow' : ((1 / 1000 : ℚ) : ℝ) ≤ q := Rat.cast_le.2 hlow
  have habs : |(q : ℝ)| = q := abs_of_pos (by exact_mod_cast hpos)
  have hmin := le_exponent_of_isRounding (n := -3) hround (by
    rw [habs]
    refine le_trans ?_ hlow'
    norm_num)
  have hmax := exponent_le_of_isRounding (n := 100) hround (by exact_mod_cast hpos.ne')
    (by rw [habs]; exact_mod_cast hhigh)
  exact ⟨_, if_pos ((expInRange_iff _).2 ⟨by omega, by omega⟩), roundRaw_bounds hpos⟩

/-- On a value that is not negative `FRAC` can only lose precision. -/
theorem hpFrac_error_of_nonneg {v : HPV} (hv : v.canonical = true) (hs : v.s = false)
    (h : hpFrac B v = .error err) : err = .precisionLoss := by
  by_cases hshort : FracShort B v
  · rw [hpFrac_short hshort] at h
    exact (Except.error.inj h).symm
  · obtain ⟨u, hu, hval⟩ := exists_canonical_fract hv hs
    rw [hpFrac_exact hshort hu hval] at h
    exact nomatch h

theorem pow_index_bounds (hn : 1 ≤ n) (hn' : n ≤ 2147483647) (hk : k ≤ 8) :
    (1 : ℚ) ≤ ((n ^ k : ℤ) : ℚ) ∧ ((n ^ k : ℤ) : ℚ) ≤ 10 ^ 75 := by
  have hlow : (1 : ℤ) ≤ n ^ k := one_le_pow₀ hn
  have hhigh : n ^ k ≤ 10 ^ 75 := by
    calc n ^ k ≤ n ^ 8 := pow_le_pow_right₀ hn hk
      _ ≤ 2147483647 ^ 8 := pow_le_pow_left₀ (by omega) hn' 8
      _ ≤ 10 ^ 75 := by norm_num
  exact ⟨by exact_mod_cast hlow, by exact_mod_cast hhigh⟩

/-- The rounded operations of a step stay far inside the exponent range, and its values are not negative. -/
theorem weylStep_error (hn : 1 ≤ n) (hn' : n ≤ 2147483647) (hk : k ≤ 8) (hc : 1 / 10 ≤ c.toRat ∧ c.toRat ≤ 10)
    (hx : 0 ≤ x.toRat ∧ x.toRat < 1) (h : weylStep B n k c x = .error err) : err = .precisionLoss := by
  obtain ⟨hpow, hpow'⟩ := pow_index_bounds hn hn' hk
  obtain ⟨p, hp, hplow, hphigh⟩ := roundP_of_moderate (q := ((n ^ k : ℤ) : ℚ)) (by linarith) (by linarith)
  have hprod : 1 / 100 ≤ c.toRat * p.toRat ∧ c.toRat * p.toRat ≤ 10 ^ 77 := by
    constructor <;> nlinarith
  obtain ⟨t, ht, htlow, hthigh⟩ := roundP_of_moderate (q := c.toRat * p.toRat) (by linarith) (by linarith)
  obtain ⟨u, hu, hulow, -⟩ := roundP_of_moderate (q := x.toRat + t.toRat) (by linarith) (by linarith)
  simp only [weylStep_eq_error_iff, hp, ht, hu, reduceCtorEq, false_or, Except.ok.injEq, exists_eq_left'] at h
  refine hpFrac_error_of_nonneg (roundP_canonical hu) ?_ h
  rw [(roundP_ok hu).1]
  exact roundRaw_sign_of_nonneg (by linarith)

theorem weylStep_ok (h : weylStep B n k c x = .ok y) : ∃ u, hpFrac B u = .ok y := by
  obtain ⟨_, _, u, -, -, -, hu⟩ := weylStep_eq_ok_iff.1 h
  exact ⟨u, hu⟩

theorem weylSteps_error (hn : 1 ≤ n) (hn' : n ≤ 2147483647) (cs : List HPV) (hk : k + cs.length ≤ 9)
    (hcs : ∀ c ∈ cs, 1 / 10 ≤ c.toRat ∧ c.toRat ≤ 10) (hx : 0 ≤ x.toRat ∧ x.toRat < 1)
    (h : weylSteps B n k cs x = .error err) : err = .precisionLoss := by
  induction cs generalizing k x with
  | nil => exact nomatch h
  | cons c cs ih =>
    rw [List.length_cons] at hk
    rcases bind_eq_error_iff.1 h with hfail | ⟨y, hstep, hrest⟩
    · exact weylStep_error hn hn' (by omega) (hcs c List.mem_cons_self) hx hfail
    · obtain ⟨u, hu⟩ := weylStep_ok hstep
      exact ih (by omega) (fun c hc => hcs c (List.mem_cons_of_mem _ hc)) (hpFrac_bounds hu) hrest

/-- The last operation of a chain that is not empty is `FRAC`. -/
theorem weylSteps_ok (cs : List HPV) (h : weylSteps B n k (c :: cs) x = .ok y) : ∃ u, hpFrac B u = .ok y := by
  induction cs generalizing k c x with
  | nil =>
    obtain ⟨_, hstep, hlast⟩ := bind_eq_ok_iff.1 h
    cases hlast
    exact weylStep_ok hstep
  | cons c' cs ih =>
    obtain ⟨_, -, hrest⟩ := bind_eq_ok_iff.1 h
    exact ih hrest

theorem rom_list_bounds (m : ConstMode) : ∀ c ∈ (rom m).list, 1 / 10 ≤ c.toRat ∧ c.toRat ≤ 10 := by
  cases m <;> decide +kernel

end Sys2Proof.Machine

namespace Sys2Proof.Machine

/-- Settles O27: success and failure of the chain of steps, for the eight constants of the bank. -/
theorem mixV2IsEightWeylSteps : Obligations.MixV2IsEightWeylSteps := by
  intro B k n C weyl fails
  have hweyl : ∀ j a b, weylStep B n (1 + j) (k.list.getD j k.e) a = .ok b ↔ weyl j a b := fun j a b => by
    rw [Nat.add_comm 1 j, weylStep_eq_ok_iff]
    rfl
  have hfails : ∀ j a err, weylStep B n (1 + j) (k.list.getD j k.e) a = .error err ↔ fails j a err :=
    fun j a err => by
      rw [Nat.add_comm 1 j, weylStep_eq_error_iff]
      rfl
  simp only [← hweyl, ← hfails]
  refine ⟨fun x => ⟨fun h => ?_, ?_⟩, fun err => ⟨fun h => ?_, ?_⟩⟩
  · obtain ⟨acc, hzero, hlast, hchain⟩ := (weylSteps_eq_ok_iff k.e k.list).1 h
    exact ⟨acc, by rw [hzero, HPV.zero_toRat], hlast, hchain⟩
  · rintro ⟨acc, hzero, hlast, hchain⟩
    rw [mixV2_eq_weylSteps k hzero]
    exact (weylSteps_eq_ok_iff k.e k.list).2 ⟨acc, rfl, hlast, hchain⟩
  · obtain ⟨acc, m, hm, hzero, hchain, hfail⟩ := (weylSteps_eq_error_iff k.e k.list).1 h
    exact ⟨acc, m, hm, by rw [hzero, HPV.zero_toRat], hchain, hfail⟩
  · rintro ⟨acc, m, hm, hzero, hchain, hfail⟩
    rw [mixV2_eq_weylSteps k hzero]
    exact (weylSteps_eq_error_iff k.e k.list).2 ⟨acc, m, hm, rfl, hchain, hfail⟩

/-- Settles O30: every result is one of `FRAC`, and with the ROM every operation before it stays in the format. -/
theorem weylResultsAreFractions : Obligations.WeylResultsAreFractions := by
  refine ⟨fun B k n x h => ?_, fun B m n err hn hn' h => ?_⟩
  · obtain ⟨u, hu⟩ := weylSteps_ok _ h
    obtain ⟨hnonneg, hlt⟩ := hpFrac_bounds hu
    obtain ⟨-, hraw, hrange⟩ := hpFrac_ok hu
    refine ⟨hnonneg, hlt, ?_⟩
    rw [hraw] at hrange ⊢
    exact roundRaw_canonical hrange
  · exact weylSteps_error hn hn' (rom m).list le_rfl (rom_list_bounds m) (by simp) h

end Sys2Proof.Machine

/-! PROOF. Mixing variant V1 (42_generation.md R81): its operations in order as a straight-line program, whose first
failing operation gives the error. -/

namespace Sys2Proof.Machine

/-! ### Straight-line programs -/

section StraightLine

variable {ε α : Type} {ops : List ((Nat → α) → Except ε α)} {m : Nat} {v u : Nat → α} {err : ε}

/-- Runs the operations in order; each reads the results so far, and its own result becomes number `m`,
`m + 1` and so on. -/
def runOps : List ((Nat → α) → Except ε α) → Nat → (Nat → α) → Except ε (Nat → α)
  | [], _, v => .ok v
  | f :: fs, m, v => do
    let x ← f v
    runOps fs (m + 1) (Function.update v m x)

/-- Each operation reads only results before its own. -/
def Causal : List ((Nat → α) → Except ε α) → Nat → Prop
  | [], _ => True
  | f :: fs, m => (∀ v w : Nat → α, (∀ j, j < m → v j = w j) → f v = f w) ∧ Causal fs (m + 1)

/-- The first `i` operations give the results that stand in `v`. -/
def OpsGive (ops : List ((Nat → α) → Except ε α)) (m : Nat) (v : Nat → α) (i : Nat) : Prop :=
  ∀ j, j < i → (ops.map (· v))[j]? = some (.ok (v (m + j)))

theorem opsGive_succ_iff {f : (Nat → α) → Except ε α} {i : Nat} :
    OpsGive (f :: ops) m v (i + 1) ↔ f v = .ok (v m) ∧ OpsGive ops (m + 1) v i := by
  constructor
  · intro h
    refine ⟨Option.some.inj (h 0 i.succ_pos), fun j hj => ?_⟩
    rw [Nat.add_right_comm, Nat.add_assoc]
    exact h (j + 1) (Nat.succ_lt_succ hj)
  · rintro ⟨hfirst, hrest⟩ (_ | j) hj
    · exact congrArg some hfirst
    · have := hrest j (Nat.lt_of_succ_lt_succ hj)
      rwa [Nat.add_right_comm, Nat.add_assoc] at this

/-- A run from results that the operations give again changes nothing until an operation fails. -/
theorem runOps_of_opsGive {i : Nat} (hgive : OpsGive ops m v i) (hfail : (ops.map (· v))[i]? = some (.error err)) :
    runOps ops m v = .error err := by
  induction ops generalizing m i with
  | nil => exact nomatch hfail
  | cons f fs ih =>
    rw [runOps]
    cases i with
    | zero => rw [show f v = .error err from Option.some.inj hfail, error_bind]
    | succ i =>
      obtain ⟨hfirst, hrest⟩ := opsGive_succ_iff.1 hgive
      rw [hfirst, ok_bind, Function.update_eq_self]
      exact ih hrest hfail

/-- A failing run has a first failing operation. -/
theorem exists_opsGive_of_runOps (hc : Causal ops m) (h : runOps ops m v = .error err) :
    ∃ (w : Nat → α) (i : Nat), (∀ j, j < m → w j = v j) ∧ OpsGive ops m w i ∧
      (ops.map (· w))[i]? = some (.error err) := by
  induction ops generalizing m v with
  | nil => exact nomatch h
  | cons f fs ih =>
    obtain ⟨hreads, hcs⟩ := hc
    rcases bind_eq_error_iff.1 h with hfail | ⟨x, hx, hrest⟩
    · exact ⟨v, 0, fun _ _ => rfl, fun j hj => absurd hj j.not_lt_zero, congrArg some hfail⟩
    · obtain ⟨w, i, hagree, hgive, hfail⟩ := ih hcs hrest
      have hbelow : ∀ j, j < m → w j = v j := fun j hj => by
        rw [hagree j (hj.trans m.lt_succ_self), Function.update_of_ne hj.ne]
      have hm : w m = x := by rw [hagree m m.lt_succ_self, Function.update_self]
      exact ⟨w, i + 1, hbelow, opsGive_succ_iff.2 ⟨by rw [hreads w v hbelow, hx, hm], hgive⟩, hfail⟩

end StraightLine

/-! ### The rule as a program -/

section Rule

variable {B : Nat} {k : ConstantBank} {n : Int} {r X : HPV} {err : ArithError}

/-- The operations of `MIX_V1` in order. -/
def mixV1Ops (B : Nat) (k : ConstantBank) (n : Int) : List ((Nat → HPV) → Except ArithError HPV) :=
  [fun _ => roundP (n : ℚ),
    fun v => hpExp (v 0), fun v => roundP (k.pi.toRat * (v 0).toRat), fun v => hpCos (v 2),
    fun v => roundP ((v 1).toRat - (v 3).toRat),
    fun _ => roundP ((n ^ 2 : ℤ) : ℚ), fun v => roundP (k.phi.toRat * (v 5).toRat),
    fun v => roundP (k.phi.toRat * (v 0).toRat), fun v => roundP ((v 6).toRat - (v 7).toRat),
    fun v => roundP ((v 8).toRat - 1),
    fun v => roundP ((v 0).toRat * k.sqrt2.toRat), fun v => hpFrac B (v 10),
    fun v => roundP ((v 0).toRat * k.sqrt3.toRat), fun v => hpFrac B (v 12),
    fun v => roundP (1 + (v 0).toRat), fun v => hpLn (v 14),
    fun v => roundP ((v 0).toRat * k.delta.toRat), fun v => hpFrac B (v 16),
    fun v => roundP ((v 0).toRat * k.rho.toRat), fun v => hpFrac B (v 18),
    fun v => roundP ((v 4).toRat * (v 9).toRat), fun v => roundP ((v 20).toRat * (v 11).toRat),
    fun v => roundP ((v 21).toRat * (v 13).toRat), fun v => roundP ((v 22).toRat * (v 15).toRat),
    fun v => roundP ((v 23).toRat * (v 17).toRat), fun v => roundP ((v 24).toRat * (v 19).toRat)]

theorem mixV1Ops_causal : Causal (mixV1Ops B k n) 0 := by
  simp +contextual [Causal, mixV1Ops]

/-- An integer of at most 100 digits enters the format exactly. -/
theorem roundP_int {m : Int} (hm : m.natAbs < 10 ^ 100) : ∃ v : HPV, roundP (m : ℚ) = .ok v ∧ v.toRat = m := by
  obtain ⟨v, hv, hval⟩ := exists_canonical_of_int hm
  exact ⟨v, by rw [← hval, roundP_toRat hv], hval⟩

/-- `MIX_V1` is the last result of its program, whatever stands in the results before the run. -/
theorem mixV1_eq_runOps (v : Nat → HPV) :
    mixV1 B k n = (do let u ← runOps (mixV1Ops B k n) 0 v; .ok (u 25)) := by
  obtain ⟨one, hone, hval⟩ := roundP_int (m := 1) (by norm_num)
  rw [Int.cast_one] at hval
  simp only [mixV1, v1Term1, v1Term2, v1Term5, fracTerm, hpProduct, hpSub, hpMul, hpAdd, ofInt, hone, hval, ok_bind,
    mixV1Ops, runOps, bind_assoc, Function.update_apply, Nat.reduceAdd, Nat.reduceEqDiff, if_true, if_false]

/-! ### The exponential of a large index -/

theorem zpow_le_exp {m : Int} {x : ℝ} (h : m * Real.log 10 ≤ x) : (10 : ℝ) ^ m ≤ Real.exp x := by
  rwa [← Real.log_le_iff_le_exp (by positivity), Real.log_zpow]

theorem log_ten_le : Real.log 10 ≤ ((75680 / 32867 : ℚ) : ℝ) := by
  have h := (lnEnc_contains 20 (x := 10) (by norm_num)).2
  rw [Rat.cast_ofNat] at h
  exact h.trans (Rat.cast_le.2 (by decide +kernel))

/-- From 75680 on the exponential is at least `10^32867`, whose leading digit is beyond the exponent range. -/
theorem hpExp_of_large (hX : X.canonical = true) (h : 75680 ≤ X.toRat) : hpExp X = .error .expRange := by
  obtain ⟨r, hr, hexp⟩ := hpExp_spec hX
  have hlarge : (10 : ℝ) ^ (32867 : Int) ≤ Real.exp (X.toRat : ℝ) := by
    refine zpow_le_exp ?_
    have hx : ((75680 : ℚ) : ℝ) ≤ X.toRat := Rat.cast_le.2 h
    have hlog := log_ten_le
    push_cast at hx hlog ⊢
    linarith
  have hmin := le_exponent_of_isRounding hr (hlarge.trans (le_abs_self _))
  rw [hexp, if_neg (by omega)]

theorem mixV1_of_large (hn : 75680 ≤ n) (hn' : n ≤ 2147483647) : mixV1 B k n = .error .expRange := by
  obtain ⟨X, hX, hval⟩ := roundP_int (m := n) (by omega)
  have hexp : hpExp X = .error .expRange :=
    hpExp_of_large (roundP_canonical hX) (by rw [hval]; exact_mod_cast hn)
  simp only [mixV1, v1Term1, ofInt, hX, hexp, ok_bind, error_bind]

/-! ### No operation leaves the domain of `ln` -/

theorem roundP_ne_lnDomain (q : ℚ) : roundP q ≠ .error .lnDomain := by
  rcases roundP_cases q with ⟨h, -⟩ | ⟨h, -⟩ <;> rw [h] <;> exact nofun

theorem hpExp_ne_lnDomain : hpExp X ≠ .error .lnDomain := by
  unfold hpExp checkExp
  split_ifs <;> exact nofun

theorem hpFrac_ne_lnDomain : hpFrac B X ≠ .error .lnDomain := by
  unfold hpFrac
  split_ifs
  · exact nofun
  · split <;> exact nofun

theorem hpLn_ne_lnDomain (hX : X.canonical = true) (hpos : 0 < X.toRat) : hpLn X ≠ .error .lnDomain := by
  rw [hpLn, if_neg (ln_domain hX hpos)]
  split_ifs <;> exact nofun

theorem roundP_pos {q : ℚ} (hq : 0 < q) (h : roundP q = .ok X) : 0 < X.toRat := by
  rw [(roundP_ok h).1]
  exact lt_of_lt_of_le (by positivity) (roundRaw_bounds hq).1

/-- The operand of `ln` is the rounding of 1 plus a positive value. -/
theorem mixV1_ne_lnDomain (hn : 1 ≤ n) : mixV1 B k n ≠ .error .lnDomain := by
  have hnpos : (0 : ℚ) < n := by exact_mod_cast hn
  simp only [mixV1, v1Term1, v1Term2, v1Term5, fracTerm, hpProduct, hpSub, hpMul, hpAdd, ofInt, ne_eq,
    bind_eq_error_iff, roundP_ne_lnDomain, hpExp_ne_lnDomain, hpFrac_ne_lnDomain, hpCos, reduceCtorEq, false_or,
    or_false, and_false, exists_false]
  rintro ⟨X, hX, _, -, _, -, _, -, _, -, one, hone, z, hz, hln⟩
  have hXpos : 0 < X.toRat := roundP_pos hnpos hX
  have honepos : 0 < one.toRat := roundP_pos (by norm_num) hone
  exact hpLn_ne_lnDomain (roundP_canonical hz) (roundP_pos (add_pos honepos hXpos) hz) hln

end Rule
end Sys2Proof.Machine

namespace Sys2Proof.Machine

/-- Settles O28: success term by term; failure by the program, and the two ends of the range of `exp` and `ln`. -/
theorem mixV1IsTheSevenTermProduct : Obligations.MixV1IsTheSevenTermProduct := by
  refine ⟨fun B k n r => ?ok, fun B k n err => ⟨fun h => ?error, ?first⟩,
    fun B k n hn hn' => ⟨mixV1_of_large hn hn', rfl⟩, fun B k n hn => ⟨mixV1_ne_lnDomain hn, rfl⟩⟩
  case ok =>
    obtain ⟨one, hone, hval⟩ := roundP_int (m := 1) (by norm_num)
    rw [Int.cast_one] at hval
    simp only [mixV1, v1Term1, v1Term2, v1Term5, fracTerm, hpProduct, hpSub, hpMul, hpAdd, ofInt, hone, hval,
      bind_eq_ok_iff, Except.ok.injEq, exists_eq_left', exists_eq_right]
    constructor
    · rintro ⟨X, hX, t1, ⟨a, ha, b, hb, c, hc, ht1⟩, t2, ⟨y, hy, u, hu, w, hw, v, hv, ht2⟩, t3, ⟨m3, hm3, ht3⟩,
        t4, ⟨m4, hm4, ht4⟩, t5, ⟨z, hz, ht5⟩, t6, ⟨m6, hm6, ht6⟩, t7, ⟨m7, hm7, ht7⟩,
        p2, hp2, p3, hp3, p4, hp4, p5, hp5, p6, hp6, hr⟩
      exact ⟨X, a, b, c, y, u, w, v, z, m3, m4, m6, m7, t1, t2, t3, t4, t5, t6, t7, p2, p3, p4, p5, p6,
        hX, ⟨ha, hb, hc, ht1⟩, ⟨hy, hu, hw, hv, ht2⟩, ⟨hm3, ht3⟩, ⟨hm4, ht4⟩, ⟨hz, ht5⟩, ⟨hm6, ht6⟩, ⟨hm7, ht7⟩,
        hp2, hp3, hp4, hp5, hp6, hr⟩
    · rintro ⟨X, a, b, c, y, u, w, v, z, m3, m4, m6, m7, t1, t2, t3, t4, t5, t6, t7, p2, p3, p4, p5, p6,
        hX, ⟨ha, hb, hc, ht1⟩, ⟨hy, hu, hw, hv, ht2⟩, ⟨hm3, ht3⟩, ⟨hm4, ht4⟩, ⟨hz, ht5⟩, ⟨hm6, ht6⟩, ⟨hm7, ht7⟩,
        hp2, hp3, hp4, hp5, hp6, hr⟩
      exact ⟨X, hX, t1, ⟨a, ha, b, hb, c, hc, ht1⟩, t2, ⟨y, hy, u, hu, w, hw, v, hv, ht2⟩, t3, ⟨m3, hm3, ht3⟩,
        t4, ⟨m4, hm4, ht4⟩, t5, ⟨z, hz, ht5⟩, t6, ⟨m6, hm6, ht6⟩, t7, ⟨m7, hm7, ht7⟩,
        p2, hp2, p3, hp3, p4, hp4, p5, hp5, p6, hp6, hr⟩
  case error =>
    rw [mixV1_eq_runOps fun _ => HPV.zero] at h
    rcases bind_eq_error_iff.1 h with hfail | ⟨_, -, hlast⟩
    · obtain ⟨v, m, -, hgive, hfail⟩ := exists_opsGive_of_runOps mixV1Ops_causal hfail
      exact ⟨v, m, fun j hj => (hgive j hj).trans (by rw [Nat.zero_add]), hfail⟩
    · exact nomatch hlast
  case first =>
    rintro ⟨v, m, hgive, hfail⟩
    rw [mixV1_eq_runOps v, runOps_of_opsGive (fun j hj => ?_) hfail, error_bind]
    rw [Nat.zero_add]
    exact hgive j hj

end Sys2Proof.Machine
